-- ==== Sys2Proof/Word.lean ====
section
/-! DEFINITION. The word types of the link block (00_scope.md R10): bytes, 16-bit words, nibbles. -/

namespace Sys2Proof

/-- `u8` of R10. -/
abbrev Byte := BitVec 8

/-- `u16` of R10: the CRC value and the command word. -/
abbrev U16 := BitVec 16

/-- A 4-bit field: a core index, a destination, a sentinel. -/
abbrev Nibble := BitVec 4

end Sys2Proof
end

