-- ==== Sys2Proof/Config.lean ====
section
/-! DEFINITION. What an implementation fixes for the life of a block instance (00_scope.md R8): the
configuration parameters with their defaults, which no operation changes (10_state.md R20); and the one free
value of the spec that no input gives. -/

namespace Sys2Proof

/-- CMD_LAYOUT (R8, R75, R76): where the fields of the command byte lie in `cmd[3:0]`, and the numbers of
the four operations. DEDUCED (log entry 9): OP is one contiguous field `[opLo+1 : opLo]`. -/
structure CmdLayout where
  /-- the place of AUTO -/
  autoBit : Fin 4 := 3
  /-- the low bit of the 2-bit field OP -/
  opLo : Fin 3 := 1
  /-- the place of INC -/
  incBit : Fin 4 := 0
  opNop : BitVec 2 := 0
  opRead : BitVec 2 := 1
  opWrite : BitVec 2 := 2
  opWrrd : BitVec 2 := 3
  deriving DecidableEq, Repr

/-- HOST_BINDING's values (R8, 20_memory.md R48, 93_implementation_defined.md I16): how the host reaches the
command interface. R8's range is "any": a way without a constructor of its own is `other`. -/
inductive HostBinding where
  | busAddress (address : Nat)
  | registerWindow (base : Nat)
  | fifo
  | functionCall
  | other (description : String)
  deriving DecidableEq, Repr

/-- The configuration parameters of R8, each with its default. -/
structure Config where
  /-- NUM_CORES: a received core index `c` is valid iff `c < numCores` -/
  numCores : Nat := 16
  /-- MAX_PAYLOAD: the largest payload in one logical frame -/
  maxPayload : Nat := 510
  /-- CMD_LAYOUT -/
  layout : CmdLayout := {}
  /-- ACCEPT_WRRD: whether validation step 3 accepts the write-read operation -/
  acceptWrrd : Bool := false
  /-- HOST_BINDING, which no rule reads; `none` where it is left open, as R8 leaves it -/
  hostBinding : Option HostBinding := none
  deriving DecidableEq, Repr

/-- The defaults of R8. -/
def Config.default : Config := {}

/-- What a byte of ACC holds that nothing has written since ACC last became unspecified (10_state.md R22, R33;
93_implementation_defined.md I13: any value): by how often ACC has become unspecified, and the address. A
free value, under no law (log entry 6). -/
opaque Config.unspecifiedAccByte (epoch address : Nat) : Byte

end Sys2Proof
end

