-- ==== Sys2Proof/Syntax.lean ====
section
/-! DEFINITION. The instructions: one constructor for each row of spec/opcode_table.json. The nine host
operations (format CMD16, 30_encoding.md R61), the four classes of received command byte (PKTCMD8, R75)
and the six classes of received link byte (LINKBYTE8, R70). Side operands (R60) are no part of a word: they
stand on the block's ports, in State. -/

namespace Sys2Proof

/-- The link status that RX_STATUS reports (R61); status 3 is reserved and no operand. -/
inductive LinkStatus where
  | wouldBlock
  | eof
  | error
  deriving DecidableEq, Repr

/-- The instructions of the link block. -/
inductive Instr where
  /-- CRC_STEP (R102) -/
  | crcStep (b : Byte)
  /-- CRC_BLOCK (R103) -/
  | crcBlock
  /-- ENCODE (R112) -/
  | encode
  /-- SEND (R115) -/
  | send (dest : Nibble)
  /-- RX_BYTE (R131) -/
  | rxByte (b : Byte)
  /-- RX_STATUS (R146) -/
  | rxStatus (status : LinkStatus)
  /-- PARSE (R170) -/
  | parse (req : Byte)
  /-- BIND (R171) -/
  | bind (core : Nibble)
  /-- RESET (R220) -/
  | reset
  /-- a received command byte with OP = NOP (R163) -/
  | cmdNop (sentinel : Nibble) (auto inc : Bool)
  /-- a received command byte with OP = READ (R165) -/
  | cmdRead (sentinel : Nibble) (auto inc : Bool)
  /-- a received command byte with OP = WRITE (R166) -/
  | cmdWrite (sentinel : Nibble) (auto inc : Bool)
  /-- a received command byte with OP = WRRD (R163) -/
  | cmdWrrd (sentinel : Nibble) (auto inc : Bool)
  /-- the link byte 0xC0 (R134) -/
  | lbEnd
  /-- the link byte 0xDB (R135) -/
  | lbEsc
  /-- the link byte 0xDC (R137) -/
  | lbEscEnd
  /-- the link byte 0xDD (R138) -/
  | lbEscEsc
  /-- the link byte 0x00 (R132) -/
  | lbZero
  /-- any other link byte (R136) -/
  | lbOther (b : Byte)
  deriving DecidableEq, Repr

/-- The bits an instruction is read from, by the format of its row (R60, R75, R70). -/
inductive CommandWord where
  /-- a host command word W -/
  | cmd16 (w : U16)
  /-- the command byte of a received packet -/
  | pktCmd8 (b : Byte)
  /-- a byte received from the link -/
  | linkByte8 (b : Byte)
  deriving DecidableEq, Repr

end Sys2Proof
end

