-- ==== Sys2Proof/WellFormed.lean ====
section
/-! DEFINITION. What a well-formed configuration and a well-formed instruction are. -/

namespace Sys2Proof

/-- The placement is disjoint in bits [3:0], and the four operations have different numbers (R8, R76). -/
abbrev CmdLayout.wf (L : CmdLayout) : Prop :=
  (L.autoBit ≠ L.incBit ∧ L.autoBit.val ≠ L.opLo.val ∧ L.autoBit.val ≠ L.opLo.val + 1 ∧
    L.incBit.val ≠ L.opLo.val ∧ L.incBit.val ≠ L.opLo.val + 1) ∧
  (L.opNop ≠ L.opRead ∧ L.opNop ≠ L.opWrite ∧ L.opNop ≠ L.opWrrd ∧
    L.opRead ≠ L.opWrite ∧ L.opRead ≠ L.opWrrd ∧ L.opWrite ≠ L.opWrrd)

/-- The ranges of R8. -/
abbrev Config.wf (c : Config) : Prop :=
  1 ≤ c.numCores ∧ c.numCores ≤ 16 ∧ c.layout.wf

/-- An instruction a word can stand for: BIND names a core of this instance (R66), and the class OTHER
holds no byte of another class (R70). -/
def Instr.wf (c : Config) : Instr → Bool
  | .bind core => decide (core.toNat < c.numCores)
  | .lbOther b => b != 0xC0#8 && b != 0xDB#8 && b != 0xDC#8 && b != 0xDD#8 && b != 0x00#8
  | .crcStep _ => true
  | .crcBlock => true
  | .encode => true
  | .send _ => true
  | .rxByte _ => true
  | .rxStatus _ => true
  | .parse _ => true
  | .reset => true
  | .cmdNop _ _ _ => true
  | .cmdRead _ _ _ => true
  | .cmdWrite _ _ _ => true
  | .cmdWrrd _ _ _ => true
  | .lbEnd => true
  | .lbEsc => true
  | .lbEscEnd => true
  | .lbEscEsc => true
  | .lbZero => true

end Sys2Proof
end

