-- ==== Sys2Proof/Decode.lean ====
section
/-! DEFINITION. The decoder and, after it, the encoder, both written from the encoding tables of
30_encoding.md. The decoder is total on every word of the three formats and rejects by name. -/

namespace Sys2Proof

/-- Why a word stands for no instruction (R66). -/
inductive DecodeError where
  /-- `op` is 0x0 or one of 0x9 to 0xE -/
  | reservedOp (op : Nibble)
  /-- a field marked 0 in R61 is not zero -/
  | nonZeroField
  /-- RX_STATUS with status 3 -/
  | reservedStatus
  deriving DecidableEq, Repr

/-! ## Link byte values (R7, R70) -/

/-- The delimiter, START and END alike. -/
abbrev byteEND : Byte := 0xC0#8
/-- The escape prefix. -/
abbrev byteESC : Byte := 0xDB#8
/-- The escaped-delimiter marker. -/
abbrev byteESCEND : Byte := 0xDC#8
/-- The escaped-escape marker. -/
abbrev byteESCESC : Byte := 0xDD#8

/-! ## Fields of the command byte (R75, R76) -/

/-- `cmd[OP_FIELD]`. -/
def CmdLayout.opOf (L : CmdLayout) (cmd : Byte) : BitVec 2 := cmd.extractLsb' L.opLo.val 2

/-- `cmd[AUTO_BIT]` (R77). -/
def CmdLayout.autoOf (L : CmdLayout) (cmd : Byte) : Bool := cmd.getLsbD L.autoBit.val

/-- `cmd[INC_BIT]` (R77). -/
def CmdLayout.incOf (L : CmdLayout) (cmd : Byte) : Bool := cmd.getLsbD L.incBit.val

/-- The upper nibble of the command byte. -/
def sentinelOf (cmd : Byte) : Nibble := cmd.extractLsb' 4 4

/-- The command byte with these fields. -/
def CmdLayout.cmdByte (L : CmdLayout) (sentinel : Nibble) (auto inc : Bool) (op : BitVec 2) : Byte :=
  (sentinel.setWidth 8 <<< 4) ||| (op.setWidth 8 <<< L.opLo.val) |||
    ((BitVec.ofBool auto).setWidth 8 <<< L.autoBit.val) |||
    ((BitVec.ofBool inc).setWidth 8 <<< L.incBit.val)

/-! ## Decoding -/

/-- RX_STATUS's `sub` (R61): `sub[3:2] = 0`, `sub[1:0]` the status. -/
def decodeStatus (sub : Nibble) : Except DecodeError Instr :=
  match sub.toNat with
  | 0 => .ok (.rxStatus .wouldBlock)
  | 1 => .ok (.rxStatus .eof)
  | 2 => .ok (.rxStatus .error)
  | 3 => .error .reservedStatus
  | _ => .error .nonZeroField

/-- A host command word `op[15:12] sub[11:8] imm[7:0]` (R60, R61, R62), or the reason R66 refuses it. -/
def decodeCmd16 (w : U16) : Except DecodeError Instr :=
  let op : Nibble := w.extractLsb' 12 4
  let sub : Nibble := w.extractLsb' 8 4
  let imm : Byte := w.extractLsb' 0 8
  let immHi : Nibble := w.extractLsb' 4 4
  let immLo : Nibble := w.extractLsb' 0 4
  match op.toNat with
  | 0x1 => if sub = 0 then .ok (.crcStep imm) else .error .nonZeroField
  | 0x2 => if sub = 0 ∧ imm = 0 then .ok .crcBlock else .error .nonZeroField
  | 0x3 => if sub = 0 ∧ imm = 0 then .ok .encode else .error .nonZeroField
  | 0x4 => if sub = 0 ∧ immHi = 0 then .ok (.send immLo) else .error .nonZeroField
  | 0x5 => if sub = 0 then .ok (.rxByte imm) else .error .nonZeroField
  | 0x6 => if imm = 0 then decodeStatus sub else .error .nonZeroField
  | 0x7 => if sub = 0 then .ok (.parse imm) else .error .nonZeroField
  | 0x8 => if sub = 0 ∧ immHi = 0 then .ok (.bind immLo) else .error .nonZeroField
  | 0xF => if sub = 0 ∧ imm = 0 then .ok .reset else .error .nonZeroField
  | _ => .error (.reservedOp op)

/-- The class of a received command byte, by its OP number (R75, R76). The four numbers of a well-formed
layout are all the 2-bit values, so that the last branch is OP = WRRD. -/
def decodePktCmd8 (L : CmdLayout) (cmd : Byte) : Instr :=
  let sentinel := sentinelOf cmd
  let auto := L.autoOf cmd
  let inc := L.incOf cmd
  let op := L.opOf cmd
  if op = L.opNop then .cmdNop sentinel auto inc
  else if op = L.opRead then .cmdRead sentinel auto inc
  else if op = L.opWrite then .cmdWrite sentinel auto inc
  else .cmdWrrd sentinel auto inc

/-- The class of a received link byte, compared in the order of R70. -/
def decodeLinkByte8 (b : Byte) : Instr :=
  if b = byteEND then .lbEnd
  else if b = byteESC then .lbEsc
  else if b = byteESCEND then .lbEscEnd
  else if b = byteESCESC then .lbEscEsc
  else if b = 0x00#8 then .lbZero
  else .lbOther b

/-- The decoder, by format. -/
def decode (L : CmdLayout) : CommandWord → Except DecodeError Instr
  | .cmd16 w => decodeCmd16 w
  | .pktCmd8 b => .ok (decodePktCmd8 L b)
  | .linkByte8 b => .ok (decodeLinkByte8 b)

/-! ## Words numbered as the opcode table numbers them -/

/-- The word of a table row. DESIGN CHOICE (log entry 8): the table gives two formats eight bits each and no
bit that tells them apart; an 8-bit word 0x01 to 0x0F is read as a packet command byte with a zero sentinel,
every other 8-bit word as a link byte. -/
def tableWord (nbits w : Nat) : CommandWord :=
  if nbits ≤ 8 then
    if 0x01 ≤ w ∧ w ≤ 0x0F then .pktCmd8 (BitVec.ofNat 8 w) else .linkByte8 (BitVec.ofNat 8 w)
  else .cmd16 (BitVec.ofNat 16 w)

/-- The instruction the decoder reads from a table row's word, under the default CMD_LAYOUT (the layout
the table's PKTCMD8 rows are written in). -/
def decodeTableWord (nbits w : Nat) : Option Instr :=
  (decode Config.default.layout (tableWord nbits w)).toOption

/-! ## Encoding -/

/-- A host command word from its three fields (R60). -/
def word16 (op sub : Nibble) (imm : Byte) : U16 := op ++ sub ++ imm

/-- RX_STATUS's status code (R61). -/
def statusCode : LinkStatus → Nibble
  | .wouldBlock => 0
  | .eof => 1
  | .error => 2

/-- The word of an instruction (R61, R70, R75). -/
def encodeWord (L : CmdLayout) : Instr → CommandWord
  | .crcStep b => .cmd16 (word16 0x1 0 b)
  | .crcBlock => .cmd16 (word16 0x2 0 0)
  | .encode => .cmd16 (word16 0x3 0 0)
  | .send dest => .cmd16 (word16 0x4 0 ((0 : Nibble) ++ dest))
  | .rxByte b => .cmd16 (word16 0x5 0 b)
  | .rxStatus status => .cmd16 (word16 0x6 (statusCode status) 0)
  | .parse req => .cmd16 (word16 0x7 0 req)
  | .bind core => .cmd16 (word16 0x8 0 ((0 : Nibble) ++ core))
  | .reset => .cmd16 (word16 0xF 0 0)
  | .cmdNop sentinel auto inc => .pktCmd8 (L.cmdByte sentinel auto inc L.opNop)
  | .cmdRead sentinel auto inc => .pktCmd8 (L.cmdByte sentinel auto inc L.opRead)
  | .cmdWrite sentinel auto inc => .pktCmd8 (L.cmdByte sentinel auto inc L.opWrite)
  | .cmdWrrd sentinel auto inc => .pktCmd8 (L.cmdByte sentinel auto inc L.opWrrd)
  | .lbEnd => .linkByte8 byteEND
  | .lbEsc => .linkByte8 byteESC
  | .lbEscEnd => .linkByte8 byteESCEND
  | .lbEscEsc => .linkByte8 byteESCESC
  | .lbZero => .linkByte8 0x00#8
  | .lbOther b => .linkByte8 b

end Sys2Proof
end

