-- ==== Sys2Proof/Machine/State.lean ====
section
/-! DEFINITION. The state of the link block, the reasons a step can stop, and the state after reset. -/

namespace Sys2Proof.Machine

/-- DEC_STATE (10_state.md R23). -/
inductive DecState where
  /-- SkippingLeadingFillBytes -/
  | skip
  /-- InPacket -/
  | inPkt
  /-- InEscape -/
  | inEsc
  deriving DecidableEq, Repr

/-- The bytes of the accumulator space (20_memory.md R40) written since its contents last became unspecified,
as (address, byte) pairs, addresses strictly rising; a byte that is not listed holds a free value (10_state.md
R22, R33). -/
abbrev Memory := List Host.Cell

/-- The five ways validation rejects a frame (43_parser.md R160). -/
inductive RejectCode where
  | short
  | crc
  | opcode
  | core
  | readCount
  deriving DecidableEq, Repr

/-- The kinds of link-fatal condition (60_exceptions.md R206). -/
inductive LinkFatal where
  | eof
  | error
  deriving DecidableEq, Repr

/-- The events of 60_exceptions.md R201, each with its information. -/
inductive Event where
  | rxFrame (frame : List Byte)
  | framingEndEsc
  | framingEscEsc
  | framingBadEscape (b : Byte)
  | framingOverflow (accLen : Nat)
  | rejShort (len : Nat) (frame : List Byte)
  | rejCrc (crc : U16) (frame : List Byte)
  | rejOpcode (op : BitVec 2) (frame : List Byte)
  | rejCore (core : Nibble) (frame : List Byte)
  | rejReadCount (count : Byte) (frame : List Byte)
  | routeMiss (core : Nibble)
  | linkEof
  | linkError
  | txWouldBlock
  | txError
  | txShort (written : Nat)
  | txNotOpen
  | txTooShort (len : Nat)
  | txTooLong (len : Nat)
  deriving DecidableEq, Repr

/-- The classes of the event table (R201). -/
inductive EventClass where
  /-- the decoder-to-validator boundary, not an error -/
  | boundary
  /-- (a) transient I/O, not an error -/
  | transientIo
  /-- (b) link fatal -/
  | linkFatal
  /-- (c) framing violation -/
  | framing
  /-- (d) validation failure -/
  | validation
  /-- (e) routing miss, informational -/
  | routing
  /-- a write error, "logged" -/
  | writeError
  /-- a short write -/
  | shortWrite
  /-- a transmit precondition -/
  | txPrecondition
  /-- the encoder's capacity -/
  | capacity
  deriving DecidableEq, Repr

/-- One entry of the ordered output of a step (00_scope.md R12). -/
inductive Output where
  /-- `out_tx(b)` -/
  | tx (b : Byte)
  /-- `deliver(c, P)`, with `len(P)` (43_parser.md R168) -/
  | dispatch (core : Nibble) (packet : List Byte) (len : Nat)
  /-- `log(E, info)` -/
  | event (e : Event)
  deriving DecidableEq, Repr

/-- PARSE's verdict (30_encoding.md R64). -/
inductive Verdict where
  | acceptDispatched
  | acceptUnrouted
  | reject (code : RejectCode)
  deriving DecidableEq, Repr

/-- What an operation returns on the result port (R61, R64). -/
inductive Result where
  /-- CRC_STEP and CRC_BLOCK -/
  | crc (value : U16)
  /-- ENCODE: the count, the wire bytes, the logical frame -/
  | encoded (count : Nat) (wire frame : List Byte)
  /-- SEND: the status, the logical frame -/
  | sent (status : Int) (frame : List Byte)
  /-- PARSE: the verdict -/
  | verdict (v : Verdict)
  deriving DecidableEq, Repr

/-- The link's answer to a non-blocking write (41_encoder.md R117). -/
inductive WriteAnswer where
  | wrote (n : Nat)
  | wouldBlock
  | error
  deriving DecidableEq, Repr

/-- What the environment gives an operation beside its word: the side operands of 30_encoding.md R60 and
the answers to the two draws of 00_scope.md R13. DESIGN CHOICE (log entry 3): the draws are inputs, under
no law. -/
structure Operands where
  /-- the data port D -/
  data : List Byte := []
  /-- the side operand A -/
  a : U16 := 0
  /-- the side operand link_open -/
  linkOpen : Bool := false
  /-- the draw `req` -/
  req : Byte := 0
  /-- the draw `wr` -/
  write : WriteAnswer := .wouldBlock
  deriving DecidableEq, Repr

/-- One operation the environment has issued. -/
structure HostOp where
  word : CommandWord
  operands : Operands
  deriving DecidableEq, Repr

/-- The state. DEC_STATE, ACC, ACC_LEN, CORE_BOUND and HALTED are the spec's (10_state.md R20); `cfg` is the
instance's configuration (log entry 1), `accEpoch` counts for the free values of ACC (log entry 6), and the last
four are the block's interface (log entries 2 to 4). -/
structure State where
  /-- the configuration of this instance, which no operation changes -/
  cfg : Config
  /-- DEC_STATE -/
  decState : DecState
  /-- ACC: the bytes written since its contents last became unspecified -/
  acc : Memory
  /-- how often RESET has made ACC's contents unspecified, which picks the free values of its unwritten bytes:
  the model's own (log entry 6) -/
  accEpoch : Nat
  /-- ACC_LEN -/
  accLen : Nat
  /-- CORE_BOUND, bit c for core c -/
  coreBound : BitVec 16
  /-- HALTED -/
  halted : Bool
  /-- the side operands and draws of the operation being executed -/
  port : Operands
  /-- the operations issued and not yet executed, oldest first -/
  inputs : List HostOp
  /-- every output since reset, oldest first -/
  outputs : List Output
  /-- the result of every completed operation, oldest first -/
  results : List (Option Result)
  deriving DecidableEq, Repr

/-- Why the machine stops. -/
inductive Fault where
  /-- HALTED = 1: the operation has no step (60_exceptions.md R207). Raised by every operation but RESET.
  Exact, hence safe: the spec's own final state (I14, stuck). -/
  | halted
  /-- An address at or above RX_CAP, which does not exist (R40). Raised by the decoder's append and by the
  emission of a frame, in states outside the invariant only. Safe. -/
  | accOutOfSpace (address : Nat)
  deriving DecidableEq, Repr

/-- Why a word has no meaning. -/
inductive Refusal where
  /-- An instruction without a meaning in this model. Raised by `exec` alone; no arm does. Safe. -/
  | notModelled (mnemonic : String)
  /-- The word stands for no instruction (30_encoding.md R66). Raised by `step`. Exact, hence safe. -/
  | undecodable (e : DecodeError)
  /-- BIND of a core at or above NUM_CORES (R66). Raised by BIND. Exact, hence safe. -/
  | coreOutOfRange (core : Nibble)
  /-- PARSE of a frame longer than RX_CAP (R63, R66). Raised by PARSE, and by the received command byte
  rows, which judge a frame too. Exact for PARSE, hence safe. -/
  | frameTooLong (len : Nat)
  deriving DecidableEq, Repr

/-- What one operation answers. -/
abbrev Answer := Host.Outcome State Fault Refusal

/-- The state after reset and at power-on (10_state.md R33, 70_reset_and_hazards.md R221): ACC's contents are free
values. The values of `accEpoch`, `port`, `inputs`, `outputs` and `results` are the model's own: DESIGN CHOICE
(log entries 2, 4, 6, 14). -/
def State.reset : State where
  cfg := Config.default
  decState := .skip
  acc := []
  accEpoch := 0
  accLen := 0
  coreBound := 0
  halted := false
  port := {}
  inputs := []
  outputs := []
  results := []

end Sys2Proof.Machine
end

