-- ==== Sys2Proof/Machine/Ops.lean ====
section
/-! DEFINITION. The named operations over the accumulator space, the output streams, the result port and
the operation queue (00_scope.md R12), the events' codes (60_exceptions.md R201), and the halting
transition, this block's one counterpart of taking an exception (R200, R206). -/

namespace Sys2Proof.Machine

/-! ## Constants and derived parameters (00_scope.md R7, R9) -/

/-- CRC_LEN -/
abbrev crcLen : Nat := 2
/-- HDR_LEN -/
abbrev hdrLen : Nat := 4
/-- MIN_FRAME -/
abbrev minFrame : Nat := 6
/-- RD_OVERHEAD -/
abbrev rdOverhead : Nat := 7
/-- TX_MIN_LEN -/
abbrev txMinLen : Nat := 4

/-- PKT_CAP = HDR_LEN + MAX_PAYLOAD + CRC_LEN -/
abbrev pktCap (c : Config) : Nat := hdrLen + c.maxPayload + crcLen

/-- ENC_MAX_N = PKT_CAP - CRC_LEN -/
abbrev encMaxN (c : Config) : Nat := pktCap c - crcLen

/-- RX_CAP = PKT_CAP -/
abbrev rxCap (c : Config) : Nat := pktCap c

/-- ENC_OUT_MAX = 2 PKT_CAP + 2 -/
abbrev encOutMax (c : Config) : Nat := 2 * pktCap c + 2

/-! ## The accumulator space (20_memory.md R40, R41) -/

/-- The canonical form: addresses strictly rising. -/
abbrev Memory.wf (m : Memory) : Prop := m.Pairwise (fun x y => x.1 < y.1)

/-- The byte written at an address, if one was. -/
def Memory.read : Memory → Nat → Option Byte
  | [], _ => none
  | (a, v) :: m, x => if x = a then some v else Memory.read m x

/-- Writes the byte at an address, keeping the canonical form. -/
def Memory.write : Memory → Nat → Byte → Memory
  | [], x, v => [(x, v)]
  | (a, w) :: m, x, v =>
    if x < a then (x, v) :: (a, w) :: m
    else if x = a then (a, v) :: m
    else (a, w) :: Memory.write m x v

/-- `ACC[addr]`: the byte written there, or the free value of a byte that nothing has written since the
contents became unspecified (10_state.md R33, log entry 6). -/
def State.accByte (s : State) (addr : Nat) : Byte :=
  match s.acc.read addr with
  | some v => v
  | none => Config.unspecifiedAccByte s.accEpoch addr

/-- `MemRead(addr, 1)` (R12, R40). -/
def State.memRead (s : State) (addr : Nat) : Except Fault Byte :=
  if addr < rxCap s.cfg then .ok (s.accByte addr) else .error (.accOutOfSpace addr)

/-- `MemWrite(addr, 1, v)` (R12, R40). -/
def State.memWrite (s : State) (addr : Nat) (v : Byte) : Except Fault State :=
  if addr < rxCap s.cfg then .ok { s with acc := s.acc.write addr v }
  else .error (.accOutOfSpace addr)

/-- `[MemRead(addr,1), …]`, `n` bytes from `addr` on. -/
def State.memReadFrom (s : State) (addr : Nat) : Nat → Except Fault (List Byte)
  | 0 => .ok []
  | n + 1 =>
    match s.memRead addr with
    | .error f => .error f
    | .ok v =>
      match s.memReadFrom (addr + 1) n with
      | .error f => .error f
      | .ok vs => .ok (v :: vs)

/-- ACC_LEN <- n. -/
def State.withAccLen (s : State) (n : Nat) : State := { s with accLen := n }

/-- RESET's effect on the contents of ACC: they "become unspecified" (70_reset_and_hazards.md R220), each byte
a fresh free value. -/
def State.dropAcc (s : State) : State := { s with acc := [], accEpoch := s.accEpoch + 1 }

/-! ## CORE_BOUND (10_state.md R24) -/

/-- CORE_BOUND[c]. -/
def State.isBound (s : State) (c : Nibble) : Bool := s.coreBound.getLsbD c.toNat

/-- CORE_BOUND[c] <- 1. -/
def State.bindCore (s : State) (c : Nibble) : State :=
  { s with coreBound := s.coreBound ||| BitVec.twoPow 16 c.toNat }

/-- CORE_BOUND[c] <- 0 for every c. -/
def State.unbindAll (s : State) : State := { s with coreBound := 0 }

/-! ## Outputs and results (R12, R64) -/

/-- Appends to the ordered output. -/
def State.emit (s : State) (os : List Output) : State := { s with outputs := s.outputs ++ os }

/-- `log(E, info)`. -/
def State.log (s : State) (e : Event) : State := s.emit [.event e]

/-- `deliver(c, P)`. -/
def State.deliver (s : State) (c : Nibble) (packet : List Byte) : State :=
  s.emit [.dispatch c packet packet.length]

/-- `out_tx` of each byte in order. -/
def State.outTx (s : State) (bytes : List Byte) : State := s.emit (bytes.map .tx)

/-- The end of an operation: its result, or none, on the result port. -/
def State.reply (s : State) (r : Option Result) : State := { s with results := s.results ++ [r] }

/-- What the result port shows: the last operation's result. -/
def State.resultPort (s : State) : Option Result := s.results.getLast?.join

/-- The TX wire output. -/
def State.txWire (s : State) : List Byte :=
  s.outputs.filterMap fun | .tx b => some b | .dispatch _ _ _ => none | .event _ => none

/-- The dispatch output. -/
def State.dispatches (s : State) : List (Nibble × List Byte × Nat) :=
  s.outputs.filterMap fun | .tx _ => none | .dispatch c p n => some (c, p, n) | .event _ => none

/-- The event output. -/
def State.events (s : State) : List Event :=
  s.outputs.filterMap fun | .tx _ => none | .dispatch _ _ _ => none | .event e => some e

/-- An operation's next state, with no result, from a decoder transition that may have faulted. -/
def finish : Except Fault State → Answer
  | .ok s => .next (s.reply none)
  | .error f => .fault f

/-! ## The halting transition (60_exceptions.md R206) -/

/-- The event of a link-fatal condition. -/
def LinkFatal.event : LinkFatal → Event
  | .eof => .linkEof
  | .error => .linkError

/-- `raise LinkFatal(kind)`: the event, then HALTED <- 1; nothing else changes. -/
def State.raiseLinkFatal (s : State) (kind : LinkFatal) : State :=
  { s.log kind.event with halted := true }

/-- The way back: every element at its reset value (70_reset_and_hazards.md R220). -/
def State.resetBlock (s : State) : State :=
  { (s.dropAcc.withAccLen 0).unbindAll with decState := .skip, halted := false }

/-! ## The operation queue (10_state.md R21, 20_memory.md R49) -/

/-- Takes up an operation: it leaves the queue and its operands stand on the ports. -/
def State.takeUp (s : State) (op : HostOp) (rest : List HostOp) : State :=
  { s with inputs := rest, port := op.operands }

/-- `s` with this operation at the head of the queue, in the place of the operation that stood there. -/
def State.withNextOp (s : State) (op : HostOp) : State := { s with inputs := op :: s.inputs.tail }

/-- The draw `req` of the operation on the ports (00_scope.md R13 (a)) is this one. -/
def State.withReq (s : State) (req : Byte) : State := { s with port := { s.port with req := req } }

/-! ## Event codes (R201) -/

/-- The code of an event. -/
def Event.code : Event → Byte
  | .rxFrame _ => 0x01#8
  | .framingEndEsc => 0x10#8
  | .framingEscEsc => 0x11#8
  | .framingBadEscape _ => 0x12#8
  | .framingOverflow _ => 0x13#8
  | .rejShort _ _ => 0x20#8
  | .rejCrc _ _ => 0x21#8
  | .rejOpcode _ _ => 0x22#8
  | .rejCore _ _ => 0x23#8
  | .rejReadCount _ _ => 0x24#8
  | .routeMiss _ => 0x30#8
  | .linkEof => 0x40#8
  | .linkError => 0x41#8
  | .txWouldBlock => 0x50#8
  | .txError => 0x51#8
  | .txShort _ => 0x52#8
  | .txNotOpen => 0x53#8
  | .txTooShort _ => 0x54#8
  | .txTooLong _ => 0x55#8

/-- The class of an event. -/
def Event.kind : Event → EventClass
  | .rxFrame _ => .boundary
  | .framingEndEsc => .framing
  | .framingEscEsc => .framing
  | .framingBadEscape _ => .framing
  | .framingOverflow _ => .framing
  | .rejShort _ _ => .validation
  | .rejCrc _ _ => .validation
  | .rejOpcode _ _ => .validation
  | .rejCore _ _ => .validation
  | .rejReadCount _ _ => .validation
  | .routeMiss _ => .routing
  | .linkEof => .linkFatal
  | .linkError => .linkFatal
  | .txWouldBlock => .transientIo
  | .txError => .writeError
  | .txShort _ => .shortWrite
  | .txNotOpen => .txPrecondition
  | .txTooShort _ => .txPrecondition
  | .txTooLong _ => .capacity

/-- The code that `REJECT(code)` carries (R64): that of the event. -/
def RejectCode.code : RejectCode → Byte
  | .short => 0x20#8
  | .crc => 0x21#8
  | .opcode => 0x22#8
  | .core => 0x23#8
  | .readCount => 0x24#8

end Sys2Proof.Machine
end

