-- ==== Sys2Proof/Machine/Control.lean ====
section
/-! DEFINITION. RESET (70_reset_and_hazards.md R220). -/

namespace Sys2Proof.Machine

/-- RESET (R220): it has a step even while HALTED = 1 (60_exceptions.md R207). -/
def execReset (s : State) : Answer := .next (s.resetBlock.reply none)

end Sys2Proof.Machine
end

