-- ==== Sys2Proof/Machine/Flags.lean ====
section
/-! DEFINITION. The block's status (10_state.md R29): DEC_STATE and HALTED. There are no condition codes. -/

namespace Sys2Proof.Machine

/-- DEC_STATE <- d. -/
def State.withDec (s : State) (d : DecState) : State := { s with decState := d }

/-- `if HALTED = 1: no step` (60_exceptions.md R207), else the operation's own effect. -/
def State.running (s : State) (k : Answer) : Answer :=
  if s.halted then .fault .halted else k

end Sys2Proof.Machine
end

