-- ==== Sys2Proof/Machine/Operands.lean ====
section
/-! DEFINITION. The operand forms: the fields of a logical frame (30_encoding.md R74 to R80) and the
link's answer to a write of so many bytes (41_encoder.md R117). -/

namespace Sys2Proof.Machine

/-- `F[i]`; the rules read it only for `i < len(F)`. -/
def byteAt (F : List Byte) (i : Nat) : Byte := F.getD i 0

/-- The core index of a core byte: `core[3:0]` (R78). -/
def coreIndex (core : Byte) : Nibble := core.extractLsb' 0 4

/-- `v[15:8]` and `v[7:0]`, the high byte first (20_memory.md R42). -/
def bigEndian (v : U16) : List Byte := [v.extractLsb' 8 8, v.extractLsb' 0 8]

/-- The logical packet of a logical frame: `F[0 .. L-2)` (43_parser.md R167). -/
def stripCrc (F : List Byte) : List Byte := F.take (F.length - crcLen)

/-- The draw `wr ∈ WriteResult(cnt)` (R117): of an answer `Wrote(n)` only `n ≤ cnt` is in the set, and a
larger `n` is read as `cnt`. DESIGN CHOICE (log entry 3). -/
def WriteAnswer.within (cnt : Nat) : WriteAnswer → WriteAnswer
  | .wrote n => .wrote (min n cnt)
  | .wouldBlock => .wouldBlock
  | .error => .error

end Sys2Proof.Machine
end

