-- ==== Sys2Proof/Machine/Crc.lean ====
section
/-! DEFINITION. The CRC unit (40_crc.md): the byte step, the CRC of a string, CRC_STEP and CRC_BLOCK. -/

namespace Sys2Proof.Machine

/-- `crc_step` (R100). The bits that `<<` carries above bit 15 are lost, as `trunc_16` says. -/
def crcStep (crc : U16) (b : Byte) : U16 :=
  let x : Byte := (crc >>> 8).setWidth 8 ^^^ b
  let x : Byte := x ^^^ (x >>> 4)
  let x : U16 := x.setWidth 16
  (crc <<< 8) ^^^ (x <<< 12) ^^^ (x <<< 5) ^^^ x

/-- CRC_INIT (R7). -/
abbrev crcInit : U16 := 0x0000

/-- `crc16` (R101). -/
def crc16 (s : List Byte) : U16 := s.foldl crcStep crcInit

/-- CRC_STEP (R102): `crc_in` on A, `b` in the word. -/
def execCrcStep (b : Byte) (s : State) : Answer :=
  s.running (.next (s.reply (some (.crc (crcStep s.port.a b)))))

/-- CRC_BLOCK (R103): the string on D. -/
def execCrcBlock (s : State) : Answer :=
  s.running (.next (s.reply (some (.crc (crc16 s.port.data)))))

end Sys2Proof.Machine
end

