-- ==== Sys2Proof/Machine/Encoder.lean ====
section
/-! DEFINITION. The frame encoder and the transmit path (41_encoder.md): ENCODE and SEND. -/

namespace Sys2Proof.Machine

/-- `stuff` (R110). -/
def stuff (x : Byte) : List Byte :=
  if x = byteEND then [byteESC, byteESCEND]
  else if x = byteESC then [byteESC, byteESCESC]
  else [x]

/-- The logical frame of a logical packet: the CRC appended, big-endian (R111 step (1)). -/
def frameOf (P : List Byte) : List Byte := P ++ bigEndian (crc16 P)

/-- The wire frame of a logical frame (30_encoding.md R71; R111 steps (2) to (4)). -/
def wireOf (F : List Byte) : List Byte := [byteEND] ++ F.flatMap stuff ++ [byteEND]

/-- ENCODE (R112), with its length failure (R113). -/
def execEncode (s : State) : Answer :=
  let D := s.port.data
  s.running <|
    if D.length > encMaxN s.cfg then .next (s.reply (some (.encoded 0 [] D)))
    else
      let F := frameOf D
      let W := wireOf F
      .next (s.reply (some (.encoded W.length W F)))

/-- `normalise` (R116): the two sentinel nibbles forced, the core's low nibble taken from `dest`. -/
def normalise (D : List Byte) (dest : Nibble) : List Byte :=
  match D with
  | d0 :: _ :: rest => (0xF0#8 ||| (d0 &&& 0x0F#8)) :: (0xE#4 ++ dest) :: rest
  | short => short

/-- `write_outcome` (R118): the bytes the link accepted are on the wire; what is left is forgotten (R120). -/
def writeOutcome (wr : WriteAnswer) (W F : List Byte) (s : State) : State :=
  match wr with
  | .wrote n =>
    let t := s.outTx (W.take n)
    if n = W.length then t.reply (some (.sent 0 F))
    else (t.log (.txShort n)).reply (some (.sent (-1) F))
  | .wouldBlock => (s.log .txWouldBlock).reply (some (.sent (-1) F))
  | .error => (s.log .txError).reply (some (.sent (-1) F))

/-- SEND (R115), its checks in the order of R119. The draw `wr` is the answer on the port. -/
def execSend (dest : Nibble) (s : State) : Answer :=
  let D := s.port.data
  s.running <|
    if D.length < txMinLen then
      .next ((s.log (.txTooShort D.length)).reply (some (.sent (-1) D)))
    else
      let P := normalise D dest
      if s.port.linkOpen = false then
        .next ((s.log .txNotOpen).reply (some (.sent (-1) P)))
      else if P.length > encMaxN s.cfg then
        .next ((s.log (.txTooLong P.length)).reply (some (.sent (-1) P)))
      else
        let F := frameOf P
        let W := wireOf F
        .next (writeOutcome (s.port.write.within W.length) W F s)

end Sys2Proof.Machine
end

