-- ==== Sys2Proof/Machine/Parser.lean ====
section
/-! DEFINITION. The packet validator and router (43_parser.md): the five validation steps, acceptance and
routing, PARSE and BIND. -/

namespace Sys2Proof.Machine

/-- `reject(E, info)` (R160): the event, and the verdict; the frame is dropped. -/
def reject (code : RejectCode) (e : Event) (s : State) : Verdict × State :=
  (.reject code, s.log e)

/-- `op_ok` (R163). -/
def opOk (c : Config) (op : BitVec 2) : Bool :=
  op == c.layout.opRead || op == c.layout.opWrite || (c.acceptWrrd && op == c.layout.opWrrd)

/-- `read_ok` (R165): both comparisons between integers. -/
def readOk (F : List Byte) (req : Byte) : Bool :=
  decide (((byteAt F 3).toNat : Int) = (F.length : Int) - rdOverhead) &&
  decide (((byteAt F (F.length - 3)).toNat : Int) = (req.toNat : Int) - (byteAt F 3).toNat)

/-- `accept(F, c)` (R168): the CRC stripped (R167), then a dispatch or a routing miss (R169). -/
def accept (F : List Byte) (c : Nibble) (s : State) : Verdict × State :=
  if s.isBound c then (.acceptDispatched, s.deliver c (stripCrc F))
  else (.acceptUnrouted, s.log (.routeMiss c))

/-- `validate_and_route` (R160). -/
def validateAndRoute (F : List Byte) (req : Byte) (s : State) : Verdict × State :=
  if F.length < minFrame then reject .short (.rejShort F.length F) s
  else if crc16 F ≠ 0 then reject .crc (.rejCrc (crc16 F) F) s
  else
    let op := s.cfg.layout.opOf (byteAt F 0)
    if opOk s.cfg op = false then reject .opcode (.rejOpcode op F) s
    else
      let c := coreIndex (byteAt F 1)
      if ¬ c.toNat < s.cfg.numCores then reject .core (.rejCore c F) s
      else if op = s.cfg.layout.opRead ∧ readOk F req = false then
        reject .readCount (.rejReadCount (byteAt F 3) F) s
      else accept F c s

/-- The verdict as the operation's result. -/
def replyVerdict : Verdict × State → State
  | (v, s) => s.reply (some (.verdict v))

/-- PARSE (R170): the frame on D, the requested count in the word. A frame longer than RX_CAP is refused
in every state (R66, log entry 5). -/
def execParse (req : Byte) (s : State) : Answer :=
  if s.port.data.length > rxCap s.cfg then .refused (.frameTooLong s.port.data.length)
  else s.running (.next (replyVerdict (validateAndRoute s.port.data req s)))

/-- BIND (R171). A core at or above NUM_CORES is refused in every state (R66, log entry 5). -/
def execBind (core : Nibble) (s : State) : Answer :=
  if core.toNat < s.cfg.numCores then s.running (.next ((s.bindCore core).reply none))
  else .refused (.coreOutOfRange core)

end Sys2Proof.Machine
end

