-- ==== Sys2Proof/Machine/Decoder.lean ====
section
/-! DEFINITION. The streaming frame decoder (42_decoder.md): its helpers, RX_BYTE and RX_STATUS. -/

namespace Sys2Proof.Machine

/-- `resync(E, info)` (R143). -/
def resync (e : Event) (s : State) : State := ((s.log e).withAccLen 0).withDec .inPkt

/-- `append(v)` (R142). -/
def append (v : Byte) (s : State) : Except Fault State :=
  if s.accLen = rxCap s.cfg then .ok (resync (.framingOverflow s.accLen) s)
  else
    match s.memWrite s.accLen v with
    | .error f => .error f
    | .ok t => .ok ((t.withAccLen (t.accLen + 1)).withDec .inPkt)

/-- `emit_frame()` (R144). The draw `req` is the one on the port. -/
def emitFrame (s : State) : Except Fault State :=
  if 0 < s.accLen then
    match s.memReadFrom 0 s.accLen with
    | .error f => .error f
    | .ok F => .ok (validateAndRoute F s.port.req ((s.withAccLen 0).log (.rxFrame F))).2
  else .ok s

/-- INPKT's transitions (R134 to R136). -/
def receiveInPkt (b : Byte) (s : State) : Except Fault State :=
  if b = byteEND then emitFrame s
  else if b = byteESC then .ok (s.withDec .inEsc)
  else append b s

/-- INESC's transitions (R137 to R141). -/
def receiveInEsc (b : Byte) (s : State) : Except Fault State :=
  if b = byteESCEND then append byteEND s
  else if b = byteESCESC then append byteESC s
  else if b = byteEND then .ok (resync .framingEndEsc s)
  else if b = byteESC then .ok (resync .framingEscEsc s)
  else .ok (resync (.framingBadEscape b) s)

/-- The decoder's step on one byte (R131 to R133). -/
def receive (b : Byte) (s : State) : Except Fault State :=
  match s.decState with
  | .skip => if b = 0x00#8 then .ok s else receiveInPkt b (s.withDec .inPkt)
  | .inPkt => receiveInPkt b s
  | .inEsc => receiveInEsc b s

/-- RX_BYTE (R131). -/
def execRxByte (b : Byte) (s : State) : Answer := s.running (finish (receive b s))

/-- RX_STATUS (R146). -/
def execRxStatus (status : LinkStatus) (s : State) : Answer :=
  s.running <|
    match status with
    | .wouldBlock => .next (s.reply none)
    | .eof => .next ((s.raiseLinkFatal .eof).reply none)
    | .error => .next ((s.raiseLinkFatal .error).reply none)

end Sys2Proof.Machine
end

