-- ==== Sys2Proof/Machine/LinkBytes.lean ====
section
/-! DEFINITION. The link byte rows of the opcode table (30_encoding.md R70): one byte of a class arriving at
the decoder, each the class's column of the transition table of 42_decoder.md R130. The spec's host feeds
such a byte by RX_BYTE; that a row acts as RX_BYTE of its byte is log entry 7, and a statement. -/

namespace Sys2Proof.Machine

/-- LB_END (R133, R134, R139). -/
def execLbEnd (s : State) : Answer :=
  s.running <| finish <|
    match s.decState with
    | .skip => emitFrame (s.withDec .inPkt)
    | .inPkt => emitFrame s
    | .inEsc => .ok (resync .framingEndEsc s)

/-- LB_ESC (R133, R135, R140). -/
def execLbEsc (s : State) : Answer :=
  s.running <| finish <|
    match s.decState with
    | .skip => .ok (s.withDec .inEsc)
    | .inPkt => .ok (s.withDec .inEsc)
    | .inEsc => .ok (resync .framingEscEsc s)

/-- LB_ESC_END (R133, R136, R137). -/
def execLbEscEnd (s : State) : Answer :=
  s.running <| finish <|
    match s.decState with
    | .skip => append byteESCEND (s.withDec .inPkt)
    | .inPkt => append byteESCEND s
    | .inEsc => append byteEND s

/-- LB_ESC_ESC (R133, R136, R138). -/
def execLbEscEsc (s : State) : Answer :=
  s.running <| finish <|
    match s.decState with
    | .skip => append byteESCESC (s.withDec .inPkt)
    | .inPkt => append byteESCESC s
    | .inEsc => append byteESC s

/-- LB_ZERO (R132, R136, R141). -/
def execLbZero (s : State) : Answer :=
  s.running <| finish <|
    match s.decState with
    | .skip => .ok s
    | .inPkt => append 0x00#8 s
    | .inEsc => .ok (resync (.framingBadEscape 0x00#8) s)

/-- LB_OTHER (R133, R136, R141). -/
def execLbOther (b : Byte) (s : State) : Answer :=
  s.running <| finish <|
    match s.decState with
    | .skip => append b (s.withDec .inPkt)
    | .inPkt => append b s
    | .inEsc => .ok (resync (.framingBadEscape b) s)

end Sys2Proof.Machine
end

