-- ==== Sys2Proof/Machine/PacketCmd.lean ====
section
/-! DEFINITION. The received command byte rows of the opcode table (30_encoding.md R75, R76): a logical frame
with this command byte is judged. Its command byte is the instruction's own, its other bytes stand on the
data port, and the requested count is the draw on the port. The spec's host presents a whole frame by PARSE
(or the decoder emits one); that a row acts as PARSE of its frame is log entry 7, and a statement. -/

namespace Sys2Proof.Machine

/-- Validation steps 1 and 2 (43_parser.md R161, R162): the rejection, where one of them fails. -/
def integrityReject (F : List Byte) (s : State) : Option (Verdict × State) :=
  if F.length < minFrame then some (reject .short (.rejShort F.length F) s)
  else if crc16 F ≠ 0 then some (reject .crc (.rejCrc (crc16 F) F) s)
  else none

/-- Step 3's rejection (R163). -/
def rejectOpcode (op : BitVec 2) (F : List Byte) (s : State) : Verdict × State :=
  reject .opcode (.rejOpcode op F) s

/-- Step 4, then what follows it (R164). -/
def withValidCore (F : List Byte) (s : State) (k : Nibble → Verdict × State) : Verdict × State :=
  let c := coreIndex (byteAt F 1)
  if c.toNat < s.cfg.numCores then k c else reject .core (.rejCore c F) s

/-- Judges a frame: refused when it is longer than RX_CAP (R63), rejected by steps 1 and 2, else what its
command byte asks for. -/
def judge (F : List Byte) (s : State) (byClass : Verdict × State) : Answer :=
  if F.length > rxCap s.cfg then .refused (.frameTooLong F.length)
  else s.running (.next (replyVerdict ((integrityReject F s).getD byClass)))

/-- CMD_NOP (R163): always rejected by step 3. -/
def execCmdNop (sentinel : Nibble) (auto inc : Bool) (s : State) : Answer :=
  let op := s.cfg.layout.opNop
  let F := s.cfg.layout.cmdByte sentinel auto inc op :: s.port.data
  judge F s (rejectOpcode op F s)

/-- CMD_READ (R164, R165, R168): step 5 applies. -/
def execCmdRead (sentinel : Nibble) (auto inc : Bool) (s : State) : Answer :=
  let F := s.cfg.layout.cmdByte sentinel auto inc s.cfg.layout.opRead :: s.port.data
  judge F s <| withValidCore F s fun c =>
    if readOk F s.port.req = true then accept F c s
    else reject .readCount (.rejReadCount (byteAt F 3) F) s

/-- CMD_WRITE (R164, R166, R168): no step 5. -/
def execCmdWrite (sentinel : Nibble) (auto inc : Bool) (s : State) : Answer :=
  let F := s.cfg.layout.cmdByte sentinel auto inc s.cfg.layout.opWrite :: s.port.data
  judge F s <| withValidCore F s fun c => accept F c s

/-- CMD_WRRD (R163): rejected by step 3 unless ACCEPT_WRRD; then as a write, with no step 5 (R165). -/
def execCmdWrrd (sentinel : Nibble) (auto inc : Bool) (s : State) : Answer :=
  let op := s.cfg.layout.opWrrd
  let F := s.cfg.layout.cmdByte sentinel auto inc op :: s.port.data
  judge F s <|
    if s.cfg.acceptWrrd = true then withValidCore F s fun c => accept F c s
    else rejectOpcode op F s

end Sys2Proof.Machine
end

