-- ==== Sys2Proof/Machine/Dispatch.lean ====
section
/-! DEFINITION. The meaning of every instruction, one arm per constructor of Instr. -/

namespace Sys2Proof.Machine

def exec (i : Instr) (s : State) : Host.Outcome State Fault Refusal :=
  match i with
  | .crcStep b => Sys2Proof.Machine.execCrcStep b s
  | .crcBlock => Sys2Proof.Machine.execCrcBlock s
  | .encode => Sys2Proof.Machine.execEncode s
  | .send dest => Sys2Proof.Machine.execSend dest s
  | .rxByte b => Sys2Proof.Machine.execRxByte b s
  | .rxStatus status => Sys2Proof.Machine.execRxStatus status s
  | .parse req => Sys2Proof.Machine.execParse req s
  | .bind core => Sys2Proof.Machine.execBind core s
  | .reset => Sys2Proof.Machine.execReset s
  | .cmdNop sentinel auto inc => Sys2Proof.Machine.execCmdNop sentinel auto inc s
  | .cmdRead sentinel auto inc => Sys2Proof.Machine.execCmdRead sentinel auto inc s
  | .cmdWrite sentinel auto inc => Sys2Proof.Machine.execCmdWrite sentinel auto inc s
  | .cmdWrrd sentinel auto inc => Sys2Proof.Machine.execCmdWrrd sentinel auto inc s
  | .lbEnd => Sys2Proof.Machine.execLbEnd s
  | .lbEsc => Sys2Proof.Machine.execLbEsc s
  | .lbEscEnd => Sys2Proof.Machine.execLbEscEnd s
  | .lbEscEsc => Sys2Proof.Machine.execLbEscEsc s
  | .lbZero => Sys2Proof.Machine.execLbZero s
  | .lbOther b => Sys2Proof.Machine.execLbOther b s

end Sys2Proof.Machine
end

