-- ==== Sys2Proof/Machine/Step.lean ====
section
/-! DEFINITION. One step: the next operation the environment has issued, decoded and executed
(10_state.md R21, 70_reset_and_hazards.md R229). -/

namespace Sys2Proof.Machine

/-- One step. With no operation waiting the block is idle with its state held (60_exceptions.md R216; log
entry 11). A word that stands for no instruction is refused (30_encoding.md R66). -/
def step (s : State) : Host.Outcome State Fault Refusal :=
  match s.inputs with
  | [] => .next s
  | op :: rest =>
    match decode s.cfg.layout op.word with
    | .ok i => exec i (s.takeUp op rest)
    | .error e => .refused (.undecodable e)

/-- `s` with a table row's word as the next operation, the operands those that stand on the ports. -/
def State.withFetchWord (s : State) (nbits w : Nat) : State :=
  s.withNextOp { word := tableWord nbits w, operands := s.port }

end Sys2Proof.Machine
end

