-- ==== Sys2Proof/Machine/Run.lean ====
section
/-! DEFINITION. Runs of operations and their observation (70_reset_and_hazards.md R229, R230). -/

namespace Sys2Proof.Machine

/-- So many steps, each complete before the next (R229), up to the first that has no next state. -/
def run : Nat → State → Answer
  | 0, s => .next s
  | n + 1, s =>
    match step s with
    | .next t => run n t
    | .fault f => .fault f
    | .refused r => .refused r

/-- The three ways a run ends (R230). -/
inductive RunEnd where
  /-- (1) after its last operation -/
  | afterLast
  /-- (2) at the first operation that has no step: the fault is `halted`, in every state that meets the
  invariant -/
  | noStep (f : Fault)
  /-- (3) at the first refused command word, which marks the run refused -/
  | refused (r : Refusal)
  deriving DecidableEq, Repr

/-- So many steps as far as they go: how they end, and the state they end in. An operation that has no step
and a refused word change no state (60_exceptions.md R207, 30_encoding.md R66), so a run that stops at one ends
in the state before it, with that operation and those after it still waiting (log entry 18). -/
def runTo : Nat → State → RunEnd × State
  | 0, s => (.afterLast, s)
  | n + 1, s =>
    match step s with
    | .next t => runTo n t
    | .fault f => (.noStep f, s)
    | .refused r => (.refused r, s)

/-- What is observed of a run, however it ends (R230). -/
structure Observation where
  /-- which of the three ends the run came to -/
  ending : RunEnd
  /-- the final state -/
  final : State
  /-- the concatenated TX wire output -/
  txWire : List Byte
  /-- the dispatch output -/
  dispatches : List (Nibble × List Byte × Nat)
  /-- the event output -/
  events : List Event
  /-- the result of each operation that completed, in order -/
  results : List (Option Result)
  deriving DecidableEq, Repr

/-- The start of a run: these operations waiting, and nothing put out or returned yet (log entry 18). -/
def State.startRun (s : State) (ops : List HostOp) : State :=
  { s with inputs := ops, outputs := [], results := [] }

/-- What is observed where steps have ended. -/
def Observation.of (ending : RunEnd) (final : State) : Observation where
  ending := ending
  final := final
  txWire := final.txWire
  dispatches := final.dispatches
  events := final.events
  results := final.results

/-- The run of these operations from this start state, observed (R230). -/
def observe (start : State) (ops : List HostOp) : Observation :=
  let r := runTo ops.length (start.startRun ops)
  .of r.1 r.2

end Sys2Proof.Machine
end

