-- ==== Sys2Proof/Machine/Lines.lean ====
section
/-! DEFINITION. The assembler lines and pseudo-operations of 30_encoding.md R65 and R67, as the operations
they expand to. The text of a line is notation; its word and its operands are given here. -/

namespace Sys2Proof.Machine

/-- One line (R67). -/
inductive Line where
  | crcStep (crcIn : U16) (b : Byte)
  | crcBlock (bytes : List Byte)
  /-- another spelling of CRC_BLOCK (R65) -/
  | crc (bytes : List Byte)
  | encode (bytes : List Byte)
  | send (dest : Nibble) (bytes : List Byte) (isOpen : Bool)
  | rxByte (b : Byte)
  /-- one successful non-blocking read (R65, 42_decoder.md R145) -/
  | rxChunk (bytes : List Byte)
  | rxStatus (status : LinkStatus)
  /-- a read that returns bytes and then reports a status (R65) -/
  | rxRead (bytes : List Byte) (status : LinkStatus)
  | parse (req : Byte) (bytes : List Byte)
  | bind (core : Nibble)
  | reset
  deriving DecidableEq, Repr

/-- The instructions of a line: RX_CHUNK and RX_READ are runs of consecutive RX_BYTEs (R65). -/
def Line.instrs : Line → List Instr
  | .crcStep _ b => [.crcStep b]
  | .crcBlock _ => [.crcBlock]
  | .crc _ => [.crcBlock]
  | .encode _ => [.encode]
  | .send dest _ _ => [.send dest]
  | .rxByte b => [.rxByte b]
  | .rxChunk bytes => bytes.map .rxByte
  | .rxStatus status => [.rxStatus status]
  | .rxRead bytes status => bytes.map .rxByte ++ [.rxStatus status]
  | .parse req _ => [.parse req]
  | .bind core => [.bind core]
  | .reset => [.reset]

/-- The side operands a line gives, beside the answers to the draws, which the environment gives. A line has
no notation for them (R67). -/
def Line.operands (draws : Operands) : Line → Operands
  | .crcStep crcIn _ => { draws with a := crcIn }
  | .crcBlock bytes => { draws with data := bytes }
  | .crc bytes => { draws with data := bytes }
  | .encode bytes => { draws with data := bytes }
  | .send _ bytes isOpen => { draws with data := bytes, linkOpen := isOpen }
  | .rxByte _ => draws
  | .rxChunk _ => draws
  | .rxStatus _ => draws
  | .rxRead _ _ => draws
  | .parse _ bytes => { draws with data := bytes }
  | .bind _ => draws
  | .reset => draws

/-- The operations a line issues, each encoded as its word (R67). Its steps draw separately (00_scope.md R13,
43_parser.md R165): `draws k` answers the draws of the k-th. DESIGN CHOICE (log entry 3): the answers are an
argument here, since R65 and R67 give a line none. -/
def Line.ops (L : CmdLayout) (draws : Nat → Operands) (line : Line) : List HostOp :=
  line.instrs.mapIdx fun k i => { word := encodeWord L i, operands := line.operands (draws k) }

/-- One byte of a read, and the requested count its step draws if it completes a frame (42_decoder.md R144).
DESIGN CHOICE (log entry 3): the draw of each byte is its own input. -/
structure Received where
  byte : Byte
  req : Byte
  deriving DecidableEq, Repr

/-- RX_CHUNK (R65): the bytes of one read, each received in turn, each with its own draw. -/
def rxChunk : List Received → State → Answer
  | [], s => .next s
  | r :: rs, s =>
    match exec (.rxByte r.byte) (s.withReq r.req) with
    | .next t => rxChunk rs t
    | .fault f => .fault f
    | .refused e => .refused e

end Sys2Proof.Machine
end

