-- ==== Sys2Proof/Safety.lean ====
section
/-! DEFINITION. The terms the claims are stated in: the invariant of the block (10_state.md R32, with what the
model's own representation adds), what a safe answer is, and the spec's formulas written once more, apart
from the machine's definitions, so that a claim can compare the two. -/

namespace Sys2Proof.Machine

/-- The invariant (R32 (1), (2)), with the form of the accumulator space (20_memory.md R40, 10_state.md R22),
the range of CORE_BOUND (R24) and a well-formed configuration (00_scope.md R8). -/
structure State.Inv (s : State) : Prop where
  cfgWf : s.cfg.wf
  /-- the accumulator space is in canonical form -/
  accWf : s.acc.wf
  /-- no cell lies outside the space -/
  accInSpace : ∀ cell ∈ s.acc, cell.1 < rxCap s.cfg
  /-- R32 (1) -/
  accLenLe : s.accLen ≤ rxCap s.cfg
  /-- R22, R33: the bytes below ACC_LEN hold defined values, written since reset -/
  accDefined : ∀ a < s.accLen, (s.acc.read a).isSome = true
  /-- R32 (2) -/
  skipEmpty : s.decState = .skip → s.accLen = 0
  /-- R24: there is a bit for each core below NUM_CORES and for no other -/
  boundInRange : ∀ c, s.cfg.numCores ≤ c → s.coreBound.getLsbD c = false

/-- An answer that is no fault, but for the stop of a halted block (60_exceptions.md R207). -/
def SafeAnswer (s : State) (a : Answer) : Prop :=
  ∀ f, a = .fault f → f = .halted ∧ s.halted = true

/-- A framing violation, class (c) of the event table. -/
def Output.isFraming : Output → Bool
  | .event e => e.kind == .framing
  | .tx _ => false
  | .dispatch _ _ _ => false

/-- The frame of an RX_FRAME event. -/
def Output.rxFrame? : Output → Option (List Byte)
  | .event (.rxFrame F) => some F
  | _ => none

/-- One of the three outcomes of a frame (43_parser.md R173). -/
def Output.isOutcome : Output → Bool
  | .event e => e.kind == .validation || e.kind == .routing
  | .tx _ => false
  | .dispatch _ _ _ => true


end Sys2Proof.Machine

namespace Sys2Proof.Claims

open Sys2Proof.Machine

/-- An operation that feeds the decoder a byte: RX_BYTE, or the link byte row of that byte. -/
def Feeds (i : Instr) (b : Byte) : Prop := i = .rxByte b ∨ i = decodeLinkByte8 b

/-- RX_BYTE or one of the six link byte rows. -/
def isByteFeed : Instr → Bool
  | .rxByte _ => true
  | .lbEnd => true
  | .lbEsc => true
  | .lbEscEnd => true
  | .lbEscEsc => true
  | .lbZero => true
  | .lbOther _ => true
  | .crcStep _ => false
  | .crcBlock => false
  | .encode => false
  | .send _ => false
  | .rxStatus _ => false
  | .parse _ => false
  | .bind _ => false
  | .reset => false
  | .cmdNop _ _ _ => false
  | .cmdRead _ _ _ => false
  | .cmdWrite _ _ _ => false
  | .cmdWrrd _ _ _ => false

/-- `crc_step` as 40_crc.md R100 and 00_scope.md R11 write it: on mathematical values, truncated at the end. -/
def crcStepFormula (crc b : Nat) : Nat :=
  let x := ((crc >>> 8) ^^^ b) &&& 0xFF
  let x := x ^^^ (x >>> 4)
  ((crc <<< 8) ^^^ (x <<< 12) ^^^ (x <<< 5) ^^^ x) % 2 ^ 16

/-- One shift of the register of CRC-16 with polynomial 0x1021 (93_implementation_defined.md G1). -/
def registerShift (crc : U16) : U16 :=
  if crc.msb then (crc <<< 1) ^^^ 0x1021 else crc <<< 1

/-- The bit-serial register fed one byte, most significant bit first. -/
def registerByte (crc : U16) (b : Byte) : U16 :=
  Nat.iterate registerShift 8 (crc ^^^ (b.setWidth 16 <<< 8))

/-- What 41_encoder.md R116 says of the normalised packet. -/
def Normalised (D : List Byte) (dest : Nibble) (P : List Byte) : Prop :=
  P.length = D.length ∧ byteAt P 0 = 0xF0#8 ||| (byteAt D 0 &&& 0x0F#8) ∧
  byteAt P 1 = 0xE0#8 ||| dest.setWidth 8 ∧ ∀ i, 2 ≤ i → byteAt P i = byteAt D i

/-- The bits that make a host command word, with this many bytes on D, one of those R66 of 30_encoding.md
lists: `op` and `sub` and `imm` as R60 places them. -/
def RefusedWord (c : Config) (w : U16) (lenD : Nat) : Prop :=
  let op := w.toNat / 4096
  let sub := w.toNat / 256 % 16
  let imm := w.toNat % 256
  (op = 0 ∨ (9 ≤ op ∧ op ≤ 14)) ∨
  ((op = 1 ∨ op = 5 ∨ op = 7) ∧ sub ≠ 0) ∨
  ((op = 2 ∨ op = 3 ∨ op = 15) ∧ (sub ≠ 0 ∨ imm ≠ 0)) ∨
  ((op = 4 ∨ op = 8) ∧ (sub ≠ 0 ∨ imm / 16 ≠ 0)) ∨
  (op = 6 ∧ (sub / 4 ≠ 0 ∨ imm ≠ 0 ∨ sub % 4 = 3)) ∨
  (op = 8 ∧ c.numCores ≤ imm % 16) ∨
  (op = 7 ∧ c.maxPayload + 6 < lenD)

/-- A running block and a frame that PARSE does not refuse, whole and with a zero CRC: what steps 1 and 2
of the validator let pass (43_parser.md R161, R162). -/
structure Intact (s : State) (F : List Byte) : Prop where
  running : s.halted = false
  lenLe : F.length ≤ s.cfg.maxPayload + 6
  lenGe : 6 ≤ F.length
  crcZero : crc16 F = 0

/-- `F[0][OP_FIELD]` (30_encoding.md R75), by arithmetic. -/
def opNumber (s : State) (F : List Byte) : Nat :=
  (byteAt F 0).toNat / 2 ^ s.cfg.layout.opLo.val % 4

/-- `F[1][3:0]` (R78), by arithmetic. -/
def coreNumber (F : List Byte) : Nat := (byteAt F 1).toNat % 16

/-- What step 3 lets pass (R163). -/
def OpAccepted (s : State) (F : List Byte) : Prop :=
  opNumber s F = s.cfg.layout.opRead.toNat ∨ opNumber s F = s.cfg.layout.opWrite.toNat ∨
  (s.cfg.acceptWrrd = true ∧ opNumber s F = s.cfg.layout.opWrrd.toNat)

/-- `read_ok(F, req)` (R165), between integers. -/
def ReadConsistent (F : List Byte) (req : Byte) : Prop :=
  ((byteAt F 3).toNat : Int) = (F.length : Int) - 7 ∧
  ((byteAt F (F.length - 3)).toNat : Int) = (req.toNat : Int) - ((byteAt F 3).toNat : Int)

/-- The next state of an operation that puts out `os`, returns `r` and changes nothing else. -/
def answers (s : State) (os : List Output) (r : Option Result) : State :=
  { s with outputs := s.outputs ++ os, results := s.results ++ [r] }

/-- The next state of a judged frame that is rejected. -/
def rejected (s : State) (code : RejectCode) (e : Event) : State :=
  answers s [.event e] (some (.verdict (.reject code)))

/-- The next state of a judged frame that is accepted (R167 to R169): the core's bit decides. -/
def routed (s : State) (F : List Byte) : State :=
  let c : Nibble := BitVec.ofNat 4 (coreNumber F)
  if s.coreBound.getLsbD (coreNumber F) = true then
    answers s [.dispatch c (F.take (F.length - 2)) (F.length - 2)] (some (.verdict .acceptDispatched))
  else answers s [.event (.routeMiss c)] (some (.verdict .acceptUnrouted))

/-- From `s` to `t` one byte was stored at ACC_LEN, every other byte of ACC reads as before, ACC_LEN is one
more, the decoder is in INPKT, and nothing else changed (42_decoder.md R142). -/
def StoresByte (s t : State) (v : Byte) : Prop :=
  t.accByte s.accLen = v ∧ (∀ a, a ≠ s.accLen → t.accByte a = s.accByte a) ∧
  t = { answers s [] none with acc := t.acc, accLen := s.accLen + 1, decState := .inPkt }

/-- From `s` the decoder resynchronised with event `e` (R143): nothing else changed. -/
def resynced (s : State) (e : Event) : State :=
  { answers s [.event e] none with accLen := 0, decState := .inPkt }

/-- The bytes of ACC below ACC_LEN are those of `F`. -/
def AccHolds (s : State) (F : List Byte) : Prop :=
  F.length = s.accLen ∧ s.accLen ≤ s.cfg.maxPayload + 6 ∧
  ∀ i (hi : i < F.length), s.accByte i = F[i]

/-- The frame a received command byte row is judged with: its own byte, then the bytes on D. -/
def FrameOfRow (i : Instr) (s : State) (F : List Byte) : Prop :=
  ∃ b, encodeWord s.cfg.layout i = .pktCmd8 b ∧ F = b :: s.port.data

/-- Two states alike but for bytes of ACC that hold no valid data (10_state.md R22). -/
def SameButStaleAcc (s t : State) : Prop :=
  t = { s with acc := t.acc, accEpoch := t.accEpoch } ∧ ∀ a < s.accLen, t.accByte a = s.accByte a

end Sys2Proof.Claims
end

