-- ==== Sys2Proof/Certificates/Slice0/Obligations.lean ====
section
/-! DEFINITION. The statements for the provers. -/

open Sys2Proof Sys2Proof.Machine Sys2Proof.Claims

/-! ## The step and the encodings -/

/-- R229, R21: one step takes the oldest waiting operation, puts its operands on the ports and executes the
instruction its word decodes to. The queue and the ports are the model's (log entry 2); with nothing waiting
the block is idle with its state held (R216, log entry 11). -/
def Obligations.StepRunsTheDecodedOperation : Prop :=
  (∀ (s : State) (op : HostOp) (rest : List HostOp) (i : Instr),
    s.inputs = op :: rest → decode s.cfg.layout op.word = .ok i →
    step s = exec i { s with inputs := rest, port := op.operands }) ∧
  (∀ s : State, s.inputs = [] → step s = .next s)

/-- R66: exactly the listed command words are refused, in every state. That a halted block refuses them too,
R66 before the check of HALTED, is the model's reading (log entry 5). -/
def Obligations.RefusedWordsAreExactlyTheListedOnes : Prop :=
  ∀ (s : State) (w : U16) (operands : Operands) (rest : List HostOp),
    s.inputs = { word := .cmd16 w, operands := operands } :: rest →
    ((∃ r, step s = .refused r) ↔ RefusedWord s.cfg w operands.data.length)

/-- R61, R70, R75: decoding the word of a well-formed instruction gives it back, under every CMD_LAYOUT. -/
def Obligations.DecodeEncodeRoundTrip : Prop :=
  ∀ (c : Config) (i : Instr), c.wf → i.wf c = true →
    decode c.layout (encodeWord c.layout i) = .ok i

/-- R61, R70, R75: the word of a decoded instruction is the word it was read from: no two words decode to
one instruction. -/
def Obligations.EncodeDecodeRoundTrip : Prop :=
  ∀ (c : Config) (w : CommandWord) (i : Instr), c.wf →
    decode c.layout w = .ok i → encodeWord c.layout i = w

/-- R61, R67, R70, R75, R76: words written out from the spec decode to the instructions they stand for. -/
def Obligations.WordsDecodeAsTheSpecWritesThem : Prop :=
  let L := Config.default.layout
  decode L (.cmd16 0x1001) = .ok (.crcStep 0x01#8) ∧
  decode L (.cmd16 0x2000) = .ok .crcBlock ∧
  decode L (.cmd16 0x400C) = .ok (.send 12) ∧
  decode L (.cmd16 0x50C0) = .ok (.rxByte 0xC0#8) ∧
  decode L (.cmd16 0x6100) = .ok (.rxStatus .eof) ∧
  decode L (.cmd16 0x7003) = .ok (.parse 3) ∧
  decode L (.cmd16 0x8003) = .ok (.bind 3) ∧
  decode L (.cmd16 0xF000) = .ok .reset ∧
  decode L (.pktCmd8 0xF5#8) = .ok (.cmdWrite 0xF false true) ∧
  decode L (.pktCmd8 0x0A#8) = .ok (.cmdRead 0 true false) ∧
  decode L (.linkByte8 0xC0#8) = .ok .lbEnd ∧
  decode L (.linkByte8 0x41#8) = .ok (.lbOther 0x41#8)

/-! ## The CRC unit -/

/-- R100, R102: CRC_STEP returns the byte step of A and its byte, and changes nothing else. -/
def Obligations.CrcStepReturnsTheByteStep : Prop :=
  ∀ (b : Byte) (s : State), s.halted = false →
    ∃ v : U16, exec (.crcStep b) s = .next (answers s [] (some (.crc v))) ∧
      v.toNat = crcStepFormula s.port.a.toNat b.toNat

/-- R101, R103: CRC_BLOCK returns the byte steps over D from 0, and changes nothing else. -/
def Obligations.CrcBlockReturnsTheCrcOfD : Prop :=
  ∀ s : State, s.halted = false →
    ∃ v : U16, exec .crcBlock s = .next (answers s [] (some (.crc v))) ∧
      v.toNat = (s.port.data.map BitVec.toNat).foldl crcStepFormula 0

/-- R101, 93_implementation_defined.md G1: the byte step is eight shifts of the register of polynomial
0x1021. -/
def Obligations.CrcStepIsThePolynomialRegister : Prop :=
  ∀ (crc : U16) (b : Byte), crcStep crc b = registerByte crc b

/-- R104: the residue law. -/
def Obligations.CrcResidueIsZero : Prop :=
  ∀ s : List Byte, crc16 (s ++ [(crc16 s).extractLsb' 8 8, (crc16 s).extractLsb' 0 8]) = 0

/-- R105: the CRC is linear over exclusive-or. -/
def Obligations.CrcIsLinear : Prop :=
  (∀ (a a' : U16) (b b' : Byte), crcStep (a ^^^ a') (b ^^^ b') = crcStep a b ^^^ crcStep a' b') ∧
  (∀ x y : List Byte, x.length = y.length →
    crc16 (List.zipWith (fun u v => u ^^^ v) x y) = crc16 x ^^^ crc16 y)

/-! ## The encoder and the transmit path -/

/-- R110, R111: ENCODE returns the count, the wire frame and the logical frame, and changes nothing else. -/
def Obligations.EncodeReturnsTheWireFrame : Prop :=
  ∀ s : State, s.halted = false → s.port.data.length ≤ s.cfg.maxPayload + 4 →
    let c := crc16 s.port.data
    let F := s.port.data ++ [c.extractLsb' 8 8, c.extractLsb' 0 8]
    let W := [0xC0#8] ++ F.flatMap (fun x : Byte =>
      if x = 0xC0#8 then [0xDB#8, 0xDC#8] else if x = 0xDB#8 then [0xDB#8, 0xDD#8] else [x]) ++ [0xC0#8]
    exec .encode s = .next (answers s [] (some (.encoded W.length W F)))

/-- R113: a packet above ENC_MAX_N is not encoded: count 0, no byte, the operand unchanged. -/
def Obligations.EncodeOfTooLongPacketFails : Prop :=
  ∀ s : State, s.halted = false → s.cfg.maxPayload + 4 < s.port.data.length →
    exec .encode s = .next (answers s [] (some (.encoded 0 [] s.port.data)))

/-- R114: the encoded length is n + k + 4, k the number of bytes of the logical frame that are escaped; it
lies between L + 2 and 2 L + 2. -/
def Obligations.EncodedLengthLaw : Prop :=
  ∀ s : State, s.halted = false → s.port.data.length ≤ s.cfg.maxPayload + 4 →
    ∃ W F : List Byte, exec .encode s = .next (answers s [] (some (.encoded W.length W F))) ∧
      F.length = s.port.data.length + 2 ∧
      W.length = s.port.data.length + F.countP (fun x => x == 0xC0#8 || x == 0xDB#8) + 4 ∧
      F.length + 2 ≤ W.length ∧ W.length ≤ 2 * F.length + 2

/-- R115, R119: SEND's three checks, in their order, each with its event and its result. -/
def Obligations.SendChecksInOrder : Prop :=
  ∀ (dest : Nibble) (s : State), s.halted = false →
    (s.port.data.length < 4 →
      exec (.send dest) s = .next (answers s [.event (.txTooShort s.port.data.length)]
        (some (.sent (-1) s.port.data)))) ∧
    (∀ P, 4 ≤ s.port.data.length → Normalised s.port.data dest P →
      (s.port.linkOpen = false →
        exec (.send dest) s = .next (answers s [.event .txNotOpen] (some (.sent (-1) P)))) ∧
      (s.port.linkOpen = true → s.cfg.maxPayload + 4 < s.port.data.length →
        exec (.send dest) s = .next (answers s [.event (.txTooLong s.port.data.length)]
          (some (.sent (-1) P)))))

/-- R116, R118: a SEND that passes its checks frames the normalised packet, and the link's answer decides
what is on the wire, the event and the result; nothing else changes. -/
def Obligations.SendWritesTheNormalisedFrame : Prop :=
  ∀ (dest : Nibble) (s : State) (P : List Byte), s.halted = false → s.port.linkOpen = true →
    4 ≤ s.port.data.length → s.port.data.length ≤ s.cfg.maxPayload + 4 →
    Normalised s.port.data dest P →
    let F := frameOf P
    let W := wireOf F
    (s.port.write = .wrote W.length →
      exec (.send dest) s = .next (answers s (W.map .tx) (some (.sent 0 F)))) ∧
    (∀ n, n < W.length → s.port.write = .wrote n →
      exec (.send dest) s = .next (answers s ((W.take n).map .tx ++ [.event (.txShort n)])
        (some (.sent (-1) F)))) ∧
    (s.port.write = .wouldBlock →
      exec (.send dest) s = .next (answers s [.event .txWouldBlock] (some (.sent (-1) F)))) ∧
    (s.port.write = .error →
      exec (.send dest) s = .next (answers s [.event .txError] (some (.sent (-1) F))))

/-- R82, R120: only SEND puts bytes on the wire, and what it puts there is a prefix of the wire frame of a
logical frame whose command and core bytes carry the sentinels. -/
def Obligations.OnlySendWritesTheWire : Prop :=
  ∀ (i : Instr) (s t : State) (o : List Output), exec i s = .next t → t.outputs = s.outputs ++ o →
    (∃ b, .tx b ∈ o) →
    ∃ (dest : Nibble) (status : Int) (F : List Byte), i = .send dest ∧
      t.results = s.results ++ [some (.sent status F)] ∧
      (byteAt F 0).toNat / 16 = 0xF ∧ (byteAt F 1).toNat = 0xE0 + dest.toNat ∧
      (∃ n, t.txWire = s.txWire ++ (wireOf F).take n)

/-! ## The decoder -/

/-- R132: a zero byte in SKIP is discarded. -/
def Obligations.SkipDiscardsZeroFill : Prop :=
  ∀ (i : Instr) (s : State), Feeds i 0x00#8 → s.halted = false → s.decState = .skip →
    exec i s = .next (answers s [] none)

/-- R133: a non-zero byte in SKIP enters INPKT and is processed there in the same step. -/
def Obligations.SkipHandsNonZeroByteToInPkt : Prop :=
  ∀ (b : Byte) (i : Instr) (s : State), b ≠ 0x00#8 → Feeds i b → s.decState = .skip →
    exec i s = exec i { s with decState := .inPkt }

/-- R134, R144: END in INPKT does nothing on an empty accumulator; else it emits the frame: ACC_LEN is 0, the
frame is logged, then validated and routed with the drawn count. -/
def Obligations.InPktEndEmitsTheFrame : Prop :=
  ∀ (i : Instr) (s : State), Feeds i 0xC0#8 → s.halted = false → s.decState = .inPkt →
    (s.accLen = 0 → exec i s = .next (answers s [] none)) ∧
    (∀ F, 0 < s.accLen → AccHolds s F →
      exec i s = .next ((validateAndRoute F s.port.req
        { s with accLen := 0, outputs := s.outputs ++ [.event (.rxFrame F)] }).2.reply none))

/-- R135: ESC in INPKT begins an escape; ACC is unchanged. -/
def Obligations.InPktEscBeginsAnEscape : Prop :=
  ∀ (i : Instr) (s : State), Feeds i 0xDB#8 → s.halted = false → s.decState = .inPkt →
    exec i s = .next { answers s [] none with decState := .inEsc }

/-- R136: any other byte in INPKT is appended as it is. -/
def Obligations.InPktAppendsDataVerbatim : Prop :=
  ∀ (b : Byte) (i : Instr) (s : State), b ≠ 0xC0#8 → b ≠ 0xDB#8 → Feeds i b → s.halted = false →
    s.decState = .inPkt → s.accLen < s.cfg.maxPayload + 6 →
    ∃ t, exec i s = .next t ∧ StoresByte s t b

/-- R137, R138: the two markers in INESC append the literal delimiter and the literal escape. -/
def Obligations.InEscMarkersAppendLiterals : Prop :=
  ∀ (i : Instr) (s : State), s.halted = false → s.decState = .inEsc →
    s.accLen < s.cfg.maxPayload + 6 →
    (Feeds i 0xDC#8 → ∃ t, exec i s = .next t ∧ StoresByte s t 0xC0#8) ∧
    (Feeds i 0xDD#8 → ∃ t, exec i s = .next t ∧ StoresByte s t 0xDB#8)

/-- R139, R140, R141: every other byte in INESC is a framing violation of its own name; the decoder
resynchronises. -/
def Obligations.InEscViolationsResynchronise : Prop :=
  ∀ (i : Instr) (s : State), s.halted = false → s.decState = .inEsc →
    (Feeds i 0xC0#8 → exec i s = .next (resynced s .framingEndEsc)) ∧
    (Feeds i 0xDB#8 → exec i s = .next (resynced s .framingEscEsc)) ∧
    (∀ b, b ≠ 0xC0#8 → b ≠ 0xDB#8 → b ≠ 0xDC#8 → b ≠ 0xDD#8 → Feeds i b →
      exec i s = .next (resynced s (.framingBadEscape b)))

/-- R142: an append to a full accumulator loses the byte and resynchronises. -/
def Obligations.FullAccumulatorOverflows : Prop :=
  ∀ (b : Byte) (i : Instr) (s : State), Feeds i b → s.halted = false →
    s.accLen = s.cfg.maxPayload + 6 →
    (s.decState = .inPkt ∧ b ≠ 0xC0#8 ∧ b ≠ 0xDB#8) ∨ (s.decState = .inEsc ∧ (b = 0xDC#8 ∨ b = 0xDD#8)) →
    exec i s = .next (resynced s (.framingOverflow s.accLen))

/-- R70, R130, R131: a link byte row of the opcode table acts as RX_BYTE of its byte does (the rows as
operations are the model's choice, log entry 7). -/
def Obligations.LinkByteRowsActAsRxByte : Prop :=
  ∀ (b : Byte) (s : State), exec (decodeLinkByte8 b) s = exec (.rxByte b) s

/-- R147: SKIP is entered only by RESET. -/
def Obligations.SkipIsEnteredOnlyByReset : Prop :=
  ∀ (i : Instr) (s t : State), i ≠ .reset → exec i s = .next t → t.decState = .skip →
    s.decState = .skip

/-- R208 (2): a received byte raises at most one framing violation; or it completes one frame, which raises
RX_FRAME and then exactly one outcome; or it puts out nothing. -/
def Obligations.OneViolationOrOneFramePerByte : Prop :=
  ∀ (i : Instr) (s t : State), isByteFeed i = true → exec i s = .next t →
    t.outputs = s.outputs ∨
    (∃ o, Output.isFraming o = true ∧ t.outputs = s.outputs ++ [o]) ∨
    (∃ F o, Output.isOutcome o = true ∧ t.outputs = s.outputs ++ [.event (.rxFrame F), o])

/-- R148: a run of zero bytes is rejected, below six bytes as short, else as OP = NOP (NOP is 0, as R76
numbers it). -/
def Obligations.ZeroRunsAreRejected : Prop :=
  ∀ (req : Byte) (s : State) (n : Nat), s.halted = false → s.cfg.wf → s.cfg.layout.opNop = 0 →
    n ≤ s.cfg.maxPayload + 6 → s.port.data = List.replicate n 0x00#8 →
    (n < 6 → exec (.parse req) s = .next (rejected s .short (.rejShort n s.port.data))) ∧
    (6 ≤ n → exec (.parse req) s = .next (rejected s .opcode (.rejOpcode 0 s.port.data)))

/-- R145, R146, R227: a read boundary has no effect. One read, and the same bytes as two reads with a
would-block read between them, from a running decoder in any state with any partial frame, both complete and
end in the same state with the same outputs; only the second has one more (empty) result. -/
def Obligations.ReadBoundaryHasNoEffect : Prop :=
  ∀ (x y : List Received) (s : State), s.halted = false → s.accLen ≤ s.cfg.maxPayload + 6 →
    ∃ t u v w, rxChunk (x ++ y) s = .next t ∧
      rxChunk x s = .next u ∧ exec (.rxStatus .wouldBlock) u = .next v ∧ rxChunk y v = .next w ∧
      w = { t with results := t.results ++ [none] }

/-- R65, R229: a RX_CHUNK line is its bytes' RX_BYTE operations, in order and without another between them,
each with its own draw (log entry 3): issued at the head of the queue and stepped once a byte, it answers what
the bytes received in turn answer. -/
def Obligations.ChunkLineRunsAsItsBytes : Prop :=
  ∀ (rs : List Received) (s : State) (rest : List HostOp),
    s.inputs = Line.ops s.cfg.layout
      (fun k => { s.port with req := (rs.map Received.req).getD k 0 })
      (.rxChunk (rs.map Received.byte)) ++ rest →
    run rs.length s = rxChunk rs { s with inputs := rest }

/-- R149: the encodings of packets, fed from an empty accumulator with any draws, are decoded to exactly their logical
frames, in order; from INESC one FRAMING_END_ESC precedes them and no other violation occurs. -/
def Obligations.EncodedPacketsDecodeToTheirFrames : Prop :=
  ∀ (Ps : List (List Byte)) (rs : List Received) (s : State), Ps ≠ [] → s.halted = false →
    s.accLen = 0 → (∀ P ∈ Ps, P.length ≤ s.cfg.maxPayload + 4) →
    rs.map Received.byte = (Ps.flatMap fun P => wireOf (frameOf P)) →
    ∃ (t : State) (o : List Output),
      rxChunk rs s = .next t ∧
      t.outputs = s.outputs ++ o ∧ t.decState = .inPkt ∧ t.accLen = 0 ∧
      o.filterMap Output.rxFrame? = Ps.map frameOf ∧
      o.filter Output.isFraming = (if s.decState = .inEsc then [.event .framingEndEsc] else []) ∧
      (s.decState = .inEsc → o.head? = some (.event .framingEndEsc))

/-- R150: one byte of an encoded frame, no delimiter, no part of an escape pair, changed to a byte that is
neither END nor ESC, costs exactly that frame: one RX_FRAME of the original length and one REJ_CRC, no
violation, and the decoder in INPKT with ACC empty. -/
def Obligations.OneCorruptedByteCostsOneFrame : Prop :=
  ∀ (P : List Byte) (i : Nat) (v : Byte) (rs : List Received) (s : State), s.halted = false →
    s.decState = .inPkt → s.accLen = 0 → 4 ≤ P.length → P.length ≤ s.cfg.maxPayload + 4 →
    let W := wireOf (frameOf P)
    0 < i → i < W.length - 1 → byteAt W i ≠ 0xDB#8 → byteAt W (i - 1) ≠ 0xDB#8 →
    v ≠ byteAt W i → v ≠ 0xC0#8 → v ≠ 0xDB#8 →
    rs.map Received.byte = W.set i v →
    ∃ (t : State) (G : List Byte) (c : U16), rxChunk rs s = .next t ∧
      t.outputs = s.outputs ++ [.event (.rxFrame G), .event (.rejCrc c G)] ∧
      G.length = P.length + 2 ∧ t.decState = .inPkt ∧ t.accLen = 0

/-! ## The validator and router -/

/-- R161: a frame shorter than 6 bytes is rejected as short. -/
def Obligations.ParseRejectsShortFrames : Prop :=
  ∀ (req : Byte) (s : State), s.halted = false → s.port.data.length < 6 →
    exec (.parse req) s = .next (rejected s .short (.rejShort s.port.data.length s.port.data))

/-- R162: a frame of sufficient length whose CRC is not zero is rejected. -/
def Obligations.ParseRejectsBadCrc : Prop :=
  ∀ (req : Byte) (s : State), s.halted = false → 6 ≤ s.port.data.length →
    s.port.data.length ≤ s.cfg.maxPayload + 6 → crc16 s.port.data ≠ 0 →
    exec (.parse req) s = .next (rejected s .crc (.rejCrc (crc16 s.port.data) s.port.data))

/-- R163: an intact frame whose operation is not accepted is rejected. -/
def Obligations.ParseRejectsUnacceptedOperations : Prop :=
  ∀ (req : Byte) (s : State), Intact s s.port.data → ¬ OpAccepted s s.port.data →
    exec (.parse req) s = .next (rejected s .opcode
      (.rejOpcode (BitVec.ofNat 2 (opNumber s s.port.data)) s.port.data))

/-- R164: an intact frame with an accepted operation and a core index at or above NUM_CORES is rejected. -/
def Obligations.ParseRejectsInvalidCores : Prop :=
  ∀ (req : Byte) (s : State), Intact s s.port.data → OpAccepted s s.port.data →
    s.cfg.numCores ≤ coreNumber s.port.data →
    exec (.parse req) s = .next (rejected s .core
      (.rejCore (BitVec.ofNat 4 (coreNumber s.port.data)) s.port.data))

/-- R165: an intact READ for a valid core whose count or remaining byte is inconsistent is rejected. -/
def Obligations.ParseRejectsInconsistentReads : Prop :=
  ∀ (req : Byte) (s : State), Intact s s.port.data →
    opNumber s s.port.data = s.cfg.layout.opRead.toNat → coreNumber s.port.data < s.cfg.numCores →
    ¬ ReadConsistent s.port.data req →
    exec (.parse req) s = .next (rejected s .readCount
      (.rejReadCount (byteAt s.port.data 3) s.port.data))

/-- R167, R168, R169: a frame that passes every check is dispatched without its CRC when its core is bound,
and is a routing miss when it is not. -/
def Obligations.ParseRoutesAcceptedFrames : Prop :=
  ∀ (req : Byte) (s : State), Intact s s.port.data → OpAccepted s s.port.data →
    coreNumber s.port.data < s.cfg.numCores →
    (opNumber s s.port.data = s.cfg.layout.opRead.toNat → ReadConsistent s.port.data req) →
    exec (.parse req) s = .next (routed s s.port.data)

/-- R166: a write response is not checked beyond steps 1 to 4: it is routed for every requested count. -/
def Obligations.WriteResponsesAreNotReadChecked : Prop :=
  ∀ (req : Byte) (s : State), s.cfg.wf → Intact s s.port.data →
    opNumber s s.port.data = s.cfg.layout.opWrite.toNat → coreNumber s.port.data < s.cfg.numCores →
    exec (.parse req) s = .next (routed s s.port.data)

/-- R172: the verdict does not depend on the upper nibbles, AUTO, INC, the reg byte, the payload but for the
remaining byte, nor, for a frame that is no READ, on the count byte. -/
def Obligations.VerdictIgnoresUncheckedFields : Prop :=
  ∀ (req : Byte) (s t : State) (G : List Byte), Intact s s.port.data → Intact s G →
    G.length = s.port.data.length → opNumber s G = opNumber s s.port.data →
    coreNumber G = coreNumber s.port.data →
    (opNumber s G = s.cfg.layout.opRead.toNat → byteAt G 3 = byteAt s.port.data 3 ∧
      byteAt G (G.length - 3) = byteAt s.port.data (G.length - 3)) →
    exec (.parse req) s = .next t →
    ∃ u, exec (.parse req) { s with port := { s.port with data := G } } = .next u ∧
      u.resultPort = t.resultPort

/-- R104, R162, R168: what PARSE dispatches is a packet whose own big-endian CRC ended the frame: no other
trailer passes. -/
def Obligations.DispatchedPacketCarriedItsCrc : Prop :=
  ∀ (req : Byte) (s t : State) (c : Nibble) (P : List Byte) (n : Nat), exec (.parse req) s = .next t →
    t.outputs = s.outputs ++ [.dispatch c P n] →
    s.port.data = P ++ [(crc16 P).extractLsb' 8 8, (crc16 P).extractLsb' 0 8] ∧ n = P.length

/-- R75, R160: a received command byte row of the opcode table acts on its frame as PARSE does (the rows as
operations are the model's choice, log entry 7). -/
def Obligations.CommandByteRowsActAsParse : Prop :=
  ∀ (b : Byte) (s : State), s.cfg.wf →
    let i := decodePktCmd8 s.cfg.layout b
    let u : State := { s with port := { s.port with data := b :: s.port.data } }
    (∀ t, exec (.parse s.port.req) u = .next t → exec i s = .next { t with port := s.port }) ∧
    (∀ f, exec (.parse s.port.req) u = .fault f → exec i s = .fault f) ∧
    (∀ r, exec (.parse s.port.req) u = .refused r → exec i s = .refused r)

/-- R161, R162: every received command byte row rejects a short or damaged frame, whatever its operation. -/
def Obligations.CommandByteRowsRejectDamagedFrames : Prop :=
  ∀ (i : Instr) (s : State) (F : List Byte), FrameOfRow i s F → s.halted = false →
    F.length ≤ s.cfg.maxPayload + 6 →
    (F.length < 6 → exec i s = .next (rejected s .short (.rejShort F.length F))) ∧
    (6 ≤ F.length → crc16 F ≠ 0 → exec i s = .next (rejected s .crc (.rejCrc (crc16 F) F)))

/-- R163: an intact frame whose operation is NOP is rejected; so is one whose operation is WRRD unless
ACCEPT_WRRD. -/
def Obligations.NopAndUnacceptedWrrdAreRejected : Prop :=
  ∀ (sentinel : Nibble) (auto inc : Bool) (s : State) (F : List Byte), Intact s F →
    (FrameOfRow (.cmdNop sentinel auto inc) s F →
      exec (.cmdNop sentinel auto inc) s =
        .next (rejected s .opcode (.rejOpcode s.cfg.layout.opNop F))) ∧
    (FrameOfRow (.cmdWrrd sentinel auto inc) s F → s.cfg.acceptWrrd = false →
      exec (.cmdWrrd sentinel auto inc) s =
        .next (rejected s .opcode (.rejOpcode s.cfg.layout.opWrrd F)))

/-- R164, R165, R168, R169: an intact READ is rejected for an invalid core, then for an inconsistent count
against the drawn requested count, else routed. -/
def Obligations.ReadRowIsCheckedThenRouted : Prop :=
  ∀ (sentinel : Nibble) (auto inc : Bool) (s : State) (F : List Byte), Intact s F →
    FrameOfRow (.cmdRead sentinel auto inc) s F →
    let i := Instr.cmdRead sentinel auto inc
    (s.cfg.numCores ≤ coreNumber F →
      exec i s = .next (rejected s .core (.rejCore (BitVec.ofNat 4 (coreNumber F)) F))) ∧
    (coreNumber F < s.cfg.numCores → ¬ ReadConsistent F s.port.req →
      exec i s = .next (rejected s .readCount (.rejReadCount (byteAt F 3) F))) ∧
    (coreNumber F < s.cfg.numCores → ReadConsistent F s.port.req → exec i s = .next (routed s F))

/-- R164, R166, R163, R168, R169: an intact WRITE, and an intact WRRD under ACCEPT_WRRD, is rejected for an
invalid core, else routed with no check of its count. -/
def Obligations.WriteAndWrrdRowsAreRouted : Prop :=
  ∀ (sentinel : Nibble) (auto inc : Bool) (i : Instr) (s : State) (F : List Byte), Intact s F →
    i = .cmdWrite sentinel auto inc ∨ (i = .cmdWrrd sentinel auto inc ∧ s.cfg.acceptWrrd = true) →
    FrameOfRow i s F →
    (s.cfg.numCores ≤ coreNumber F →
      exec i s = .next (rejected s .core (.rejCore (BitVec.ofNat 4 (coreNumber F)) F))) ∧
    (coreNumber F < s.cfg.numCores → exec i s = .next (routed s F))

/-- R173: a judged frame produces exactly one outcome (a rejection, a routing miss or a dispatch); PARSE and
the command byte rows change nothing else, so the decoder's partial frame stands. -/
def Obligations.OneOutcomePerJudgedFrame : Prop :=
  ∀ (i : Instr) (s t : State), (∃ req, i = .parse req) ∨ (∃ b, i = decodePktCmd8 s.cfg.layout b) →
    exec i s = .next t →
    ∃ o v, Output.isOutcome o = true ∧ t = answers s [o] (some (.verdict v))

/-- R171: BIND sets the core's bit and changes nothing else; binding a bound core changes no bit. -/
def Obligations.BindSetsOneBit : Prop :=
  ∀ (core : Nibble) (s : State), s.halted = false → core.toNat < s.cfg.numCores →
    ∃ t, exec (.bind core) s = .next t ∧
      t = { answers s [] none with coreBound := t.coreBound } ∧
      (∀ c, t.coreBound.getLsbD c = (decide (c = core.toNat) || s.coreBound.getLsbD c)) ∧
      (s.coreBound.getLsbD core.toNat = true → t.coreBound = s.coreBound)

/-! ## Link status, halting and reset -/

/-- R146: WOULDBLOCK changes nothing; EOF and ERROR put out their event and halt the block. -/
def Obligations.RxStatusHaltsOnFatalConditions : Prop :=
  ∀ s : State, s.halted = false →
    exec (.rxStatus .wouldBlock) s = .next (answers s [] none) ∧
    exec (.rxStatus .eof) s = .next { answers s [.event .linkEof] none with halted := true } ∧
    exec (.rxStatus .error) s = .next { answers s [.event .linkError] none with halted := true }

/-- R207: while HALTED = 1 no operation but RESET has a step (a word R66 refuses is refused); RESET has
one. -/
def Obligations.HaltedBlockStepsOnlyByReset : Prop :=
  ∀ s : State, s.halted = true →
    (∀ i, i ≠ .reset → exec i s = .fault .halted ∨ ∃ r, exec i s = .refused r) ∧
    ∃ t, exec .reset s = .next t

/-- R220: RESET puts DEC_STATE, ACC_LEN, CORE_BOUND and HALTED at their reset values, in every state; of
ACC nothing is said, and nothing else changes. -/
def Obligations.ResetRestoresTheInitialState : Prop :=
  ∀ s : State, ∃ t, exec .reset s = .next t ∧
    t = { answers s [] none with decState := .skip, accLen := 0, coreBound := 0, halted := false,
                                 acc := t.acc, accEpoch := t.accEpoch }

/-- R33, R221, R8: the reset values and the default parameters. -/
def Obligations.ResetStateHasTheStatedValues : Prop :=
  State.reset.decState = .skip ∧ State.reset.accLen = 0 ∧ State.reset.coreBound = 0 ∧
  State.reset.halted = false ∧ State.reset.cfg.numCores = 16 ∧ State.reset.cfg.maxPayload = 510 ∧
  State.reset.cfg.acceptWrrd = false ∧ State.reset.cfg.layout = {}

/-! ## Invariants and whole-machine rules -/

/-- R32, R22, R24, R41: every step keeps the invariant: the accumulator space in canonical form and inside
RX_CAP, the bytes below ACC_LEN written since reset, ACC_LEN at most RX_CAP, ACC_LEN zero in SKIP, no bit of CORE_BOUND
at or above NUM_CORES. -/
def Obligations.EveryStepKeepsTheInvariant : Prop :=
  ∀ s t : State, s.Inv → step s = .next t → t.Inv

/-- R33: the reset state meets the invariant. -/
def Obligations.ResetStateMeetsTheInvariant : Prop := State.reset.Inv

/-- R200, R41: from a state that meets the invariant, a step faults only as the stop of a halted block: the
model's own fault, leaving the accumulator space, cannot occur. -/
def Obligations.InvariantStatesNeverFault : Prop :=
  ∀ s : State, s.Inv → SafeAnswer s (step s)

/-- R20, R24, R25, R8: who writes what: no operation changes the configuration; only BIND and RESET write
CORE_BOUND; only RX_STATUS and RESET write HALTED; only RX_BYTE (and the link byte rows) and RESET write
DEC_STATE, ACC and ACC_LEN. -/
def Obligations.StateIsWrittenOnlyByItsWriters : Prop :=
  ∀ (i : Instr) (s t : State), exec i s = .next t →
    t.cfg = s.cfg ∧
    ((∀ c, i ≠ .bind c) → i ≠ .reset → t.coreBound = s.coreBound) ∧
    ((∀ st, i ≠ .rxStatus st) → i ≠ .reset → t.halted = s.halted) ∧
    (isByteFeed i = false → i ≠ .reset →
      t.decState = s.decState ∧ t.accLen = s.accLen ∧ ∀ a, t.accByte a = s.accByte a)

/-- R22, R41: bytes of ACC at or above ACC_LEN are never read: two states that differ only there answer
alike. -/
def Obligations.StaleAccBytesAreNeverRead : Prop :=
  ∀ (i : Instr) (s t s' : State), SameButStaleAcc s t → exec i s = .next s' →
    ∃ t', exec i t = .next t' ∧ SameButStaleAcc s' t'

/-- R24, R164, R167, R168: a packet is dispatched only to a bound core below NUM_CORES, with its own length,
at least the four header bytes. -/
def Obligations.DispatchGoesOnlyToBoundCores : Prop :=
  ∀ (i : Instr) (s t : State) (o : List Output) (c : Nibble) (P : List Byte) (n : Nat),
    exec i s = .next t → t.outputs = s.outputs ++ o → .dispatch c P n ∈ o →
    s.coreBound.getLsbD c.toNat = true ∧ c.toNat < s.cfg.numCores ∧ n = P.length ∧ 4 ≤ n

/-- R12, R49, R230: outputs and results are only ever added to, in order, and each operation that completes
adds one result entry. -/
def Obligations.OutputsAreOnlyAddedTo : Prop :=
  ∀ (i : Instr) (s t : State), exec i s = .next t →
    (∃ o, t.outputs = s.outputs ++ o) ∧ (∃ r, t.results = s.results ++ [r]) ∧ t.inputs = s.inputs ∧
    t.port = s.port

/-- R201: the event codes. -/
def Obligations.EventCodesAreTheTable : Prop :=
  ∀ (F : List Byte) (b : Byte) (n : Nat) (v : U16) (op : BitVec 2) (c : Nibble),
    [Event.rxFrame F, .framingEndEsc, .framingEscEsc, .framingBadEscape b, .framingOverflow n,
     .rejShort n F, .rejCrc v F, .rejOpcode op F, .rejCore c F, .rejReadCount b F, .routeMiss c,
     .linkEof, .linkError, .txWouldBlock, .txError, .txShort n, .txNotOpen, .txTooShort n,
     .txTooLong n].map Event.code =
    [0x01#8, 0x10#8, 0x11#8, 0x12#8, 0x13#8, 0x20#8, 0x21#8, 0x22#8, 0x23#8, 0x24#8, 0x30#8, 0x40#8, 0x41#8, 0x50#8, 0x51#8, 0x52#8,
     0x53#8, 0x54#8, 0x55#8]
end

