-- ==== Sys2Proof/Laws/Memory.lean ====
section
/-! SUPPORT. The laws of the accumulator space: a read after a write, and that a write keeps the canonical
form. -/

namespace Sys2Proof.Machine

theorem Memory.read_write_same (m : Memory) (a : Nat) (v : Byte) : (m.write a v).read a = some v := by
  induction m with
  | nil => simp [Memory.write, Memory.read]
  | cons c m ih =>
    obtain ⟨b, w⟩ := c
    by_cases h : a < b
    · simp [Memory.write, Memory.read, h]
    · by_cases h' : a = b
      · simp [Memory.write, Memory.read, h']
      · simp [Memory.write, Memory.read, h, h', ih]

theorem Memory.read_write_other (m : Memory) (a x : Nat) (v : Byte) (hx : x ≠ a) :
    (m.write a v).read x = m.read x := by
  induction m with
  | nil => simp [Memory.write, Memory.read, hx]
  | cons c m ih =>
    obtain ⟨b, w⟩ := c
    by_cases h : a < b
    · simp [Memory.write, Memory.read, h, hx]
    · by_cases h' : a = b
      · subst h'; simp [Memory.write, Memory.read, hx]
      · simp [Memory.write, Memory.read, h, h', ih]

theorem Memory.mem_write (m : Memory) (a : Nat) (v : Byte) (c : Host.Cell) (h : c ∈ m.write a v) :
    c = (a, v) ∨ c ∈ m := by
  induction m with
  | nil => exact .inl (by simpa [Memory.write] using h)
  | cons d m ih =>
    obtain ⟨b, w⟩ := d
    by_cases hlt : a < b
    · simpa [Memory.write, hlt] using h
    · by_cases heq : a = b
      · subst heq
        simp [Memory.write] at h
        rcases h with h | h
        · exact .inl h
        · exact .inr (List.mem_cons_of_mem _ h)
      · simp [Memory.write, hlt, heq] at h
        rcases h with h | h
        · exact .inr (by simp [h])
        · rcases ih h with h | h
          · exact .inl h
          · exact .inr (List.mem_cons_of_mem _ h)

/-- A write keeps the canonical form. -/
theorem Memory.write_wf (m : Memory) (a : Nat) (v : Byte) (h : m.wf) : (m.write a v).wf := by
  induction m with
  | nil => simp [Memory.write, Memory.wf]
  | cons d m ih =>
    obtain ⟨b, w⟩ := d
    obtain ⟨hd, hm⟩ := List.pairwise_cons.mp h
    by_cases hlt : a < b
    · simp only [Memory.write, hlt, if_true]
      refine List.pairwise_cons.mpr ⟨?_, h⟩
      intro c hc
      rcases List.mem_cons.mp hc with rfl | hc
      · exact hlt
      · exact hlt.trans (hd c hc)
    · by_cases heq : a = b
      · subst heq
        simp only [Memory.write, lt_irrefl, if_false, if_true]
        exact List.pairwise_cons.mpr ⟨fun c hc => hd c hc, hm⟩
      · simp only [Memory.write, hlt, heq, if_false]
        refine List.pairwise_cons.mpr ⟨?_, ih hm⟩
        intro c hc
        rcases Memory.mem_write m a v c hc with rfl | hc
        · exact lt_of_le_of_ne (not_lt.mp hlt) (Ne.symm heq)
        · exact hd c hc

/-- The empty space is in canonical form. -/
theorem Memory.empty_wf : Memory.wf [] := by simp [Memory.wf]

end Sys2Proof.Machine
end

