-- ==== Sys2Proof/Laws/State.lean ====
section
/-! SUPPORT. One lemma for each field of State under each named update, so that no proof unfolds a record
update. -/

namespace Sys2Proof.Machine

variable (s : State)

/-! ## withAccLen -/

@[simp] theorem State.withAccLen_cfg (n : Nat) : (s.withAccLen n).cfg = s.cfg := rfl
@[simp] theorem State.withAccLen_decState (n : Nat) : (s.withAccLen n).decState = s.decState := rfl
@[simp] theorem State.withAccLen_acc (n : Nat) : (s.withAccLen n).acc = s.acc := rfl
@[simp] theorem State.withAccLen_accEpoch (n : Nat) : (s.withAccLen n).accEpoch = s.accEpoch := rfl
@[simp] theorem State.withAccLen_accByte (n : Nat) (x : Nat) : (s.withAccLen n).accByte x = s.accByte x := rfl
@[simp] theorem State.withAccLen_accLen (n : Nat) : (s.withAccLen n).accLen = n := rfl
@[simp] theorem State.withAccLen_coreBound (n : Nat) : (s.withAccLen n).coreBound = s.coreBound := rfl
@[simp] theorem State.withAccLen_halted (n : Nat) : (s.withAccLen n).halted = s.halted := rfl
@[simp] theorem State.withAccLen_port (n : Nat) : (s.withAccLen n).port = s.port := rfl
@[simp] theorem State.withAccLen_inputs (n : Nat) : (s.withAccLen n).inputs = s.inputs := rfl
@[simp] theorem State.withAccLen_outputs (n : Nat) : (s.withAccLen n).outputs = s.outputs := rfl
@[simp] theorem State.withAccLen_results (n : Nat) : (s.withAccLen n).results = s.results := rfl

/-! ## dropAcc -/

@[simp] theorem State.dropAcc_cfg : (s.dropAcc).cfg = s.cfg := rfl
@[simp] theorem State.dropAcc_decState : (s.dropAcc).decState = s.decState := rfl
@[simp] theorem State.dropAcc_acc : (s.dropAcc).acc = [] := rfl
@[simp] theorem State.dropAcc_accEpoch : (s.dropAcc).accEpoch = s.accEpoch + 1 := rfl
@[simp] theorem State.dropAcc_accLen : (s.dropAcc).accLen = s.accLen := rfl
@[simp] theorem State.dropAcc_coreBound : (s.dropAcc).coreBound = s.coreBound := rfl
@[simp] theorem State.dropAcc_halted : (s.dropAcc).halted = s.halted := rfl
@[simp] theorem State.dropAcc_port : (s.dropAcc).port = s.port := rfl
@[simp] theorem State.dropAcc_inputs : (s.dropAcc).inputs = s.inputs := rfl
@[simp] theorem State.dropAcc_outputs : (s.dropAcc).outputs = s.outputs := rfl
@[simp] theorem State.dropAcc_results : (s.dropAcc).results = s.results := rfl

/-! ## bindCore -/

@[simp] theorem State.bindCore_cfg (c : Nibble) : (s.bindCore c).cfg = s.cfg := rfl
@[simp] theorem State.bindCore_decState (c : Nibble) : (s.bindCore c).decState = s.decState := rfl
@[simp] theorem State.bindCore_acc (c : Nibble) : (s.bindCore c).acc = s.acc := rfl
@[simp] theorem State.bindCore_accEpoch (c : Nibble) : (s.bindCore c).accEpoch = s.accEpoch := rfl
@[simp] theorem State.bindCore_accByte (c : Nibble) (x : Nat) : (s.bindCore c).accByte x = s.accByte x := rfl
@[simp] theorem State.bindCore_accLen (c : Nibble) : (s.bindCore c).accLen = s.accLen := rfl
@[simp] theorem State.bindCore_coreBound (c : Nibble) : (s.bindCore c).coreBound = s.coreBound ||| BitVec.twoPow 16 c.toNat := rfl
@[simp] theorem State.bindCore_halted (c : Nibble) : (s.bindCore c).halted = s.halted := rfl
@[simp] theorem State.bindCore_port (c : Nibble) : (s.bindCore c).port = s.port := rfl
@[simp] theorem State.bindCore_inputs (c : Nibble) : (s.bindCore c).inputs = s.inputs := rfl
@[simp] theorem State.bindCore_outputs (c : Nibble) : (s.bindCore c).outputs = s.outputs := rfl
@[simp] theorem State.bindCore_results (c : Nibble) : (s.bindCore c).results = s.results := rfl

/-! ## unbindAll -/

@[simp] theorem State.unbindAll_cfg : (s.unbindAll).cfg = s.cfg := rfl
@[simp] theorem State.unbindAll_decState : (s.unbindAll).decState = s.decState := rfl
@[simp] theorem State.unbindAll_acc : (s.unbindAll).acc = s.acc := rfl
@[simp] theorem State.unbindAll_accEpoch : (s.unbindAll).accEpoch = s.accEpoch := rfl
@[simp] theorem State.unbindAll_accByte (x : Nat) : (s.unbindAll).accByte x = s.accByte x := rfl
@[simp] theorem State.unbindAll_accLen : (s.unbindAll).accLen = s.accLen := rfl
@[simp] theorem State.unbindAll_coreBound : (s.unbindAll).coreBound = 0 := rfl
@[simp] theorem State.unbindAll_halted : (s.unbindAll).halted = s.halted := rfl
@[simp] theorem State.unbindAll_port : (s.unbindAll).port = s.port := rfl
@[simp] theorem State.unbindAll_inputs : (s.unbindAll).inputs = s.inputs := rfl
@[simp] theorem State.unbindAll_outputs : (s.unbindAll).outputs = s.outputs := rfl
@[simp] theorem State.unbindAll_results : (s.unbindAll).results = s.results := rfl

/-! ## emit -/

@[simp] theorem State.emit_cfg (os : List Output) : (s.emit os).cfg = s.cfg := rfl
@[simp] theorem State.emit_decState (os : List Output) : (s.emit os).decState = s.decState := rfl
@[simp] theorem State.emit_acc (os : List Output) : (s.emit os).acc = s.acc := rfl
@[simp] theorem State.emit_accEpoch (os : List Output) : (s.emit os).accEpoch = s.accEpoch := rfl
@[simp] theorem State.emit_accByte (os : List Output) (x : Nat) : (s.emit os).accByte x = s.accByte x := rfl
@[simp] theorem State.emit_accLen (os : List Output) : (s.emit os).accLen = s.accLen := rfl
@[simp] theorem State.emit_coreBound (os : List Output) : (s.emit os).coreBound = s.coreBound := rfl
@[simp] theorem State.emit_halted (os : List Output) : (s.emit os).halted = s.halted := rfl
@[simp] theorem State.emit_port (os : List Output) : (s.emit os).port = s.port := rfl
@[simp] theorem State.emit_inputs (os : List Output) : (s.emit os).inputs = s.inputs := rfl
@[simp] theorem State.emit_outputs (os : List Output) : (s.emit os).outputs = s.outputs ++ os := rfl
@[simp] theorem State.emit_results (os : List Output) : (s.emit os).results = s.results := rfl

/-! ## log -/

@[simp] theorem State.log_cfg (e : Event) : (s.log e).cfg = s.cfg := rfl
@[simp] theorem State.log_decState (e : Event) : (s.log e).decState = s.decState := rfl
@[simp] theorem State.log_acc (e : Event) : (s.log e).acc = s.acc := rfl
@[simp] theorem State.log_accEpoch (e : Event) : (s.log e).accEpoch = s.accEpoch := rfl
@[simp] theorem State.log_accByte (e : Event) (x : Nat) : (s.log e).accByte x = s.accByte x := rfl
@[simp] theorem State.log_accLen (e : Event) : (s.log e).accLen = s.accLen := rfl
@[simp] theorem State.log_coreBound (e : Event) : (s.log e).coreBound = s.coreBound := rfl
@[simp] theorem State.log_halted (e : Event) : (s.log e).halted = s.halted := rfl
@[simp] theorem State.log_port (e : Event) : (s.log e).port = s.port := rfl
@[simp] theorem State.log_inputs (e : Event) : (s.log e).inputs = s.inputs := rfl
@[simp] theorem State.log_outputs (e : Event) : (s.log e).outputs = s.outputs ++ [.event e] := rfl
@[simp] theorem State.log_results (e : Event) : (s.log e).results = s.results := rfl

/-! ## deliver -/

@[simp] theorem State.deliver_cfg (c : Nibble) (P : List Byte) : (s.deliver c P).cfg = s.cfg := rfl
@[simp] theorem State.deliver_decState (c : Nibble) (P : List Byte) : (s.deliver c P).decState = s.decState := rfl
@[simp] theorem State.deliver_acc (c : Nibble) (P : List Byte) : (s.deliver c P).acc = s.acc := rfl
@[simp] theorem State.deliver_accEpoch (c : Nibble) (P : List Byte) : (s.deliver c P).accEpoch = s.accEpoch := rfl
@[simp] theorem State.deliver_accByte (c : Nibble) (P : List Byte) (x : Nat) : (s.deliver c P).accByte x = s.accByte x := rfl
@[simp] theorem State.deliver_accLen (c : Nibble) (P : List Byte) : (s.deliver c P).accLen = s.accLen := rfl
@[simp] theorem State.deliver_coreBound (c : Nibble) (P : List Byte) : (s.deliver c P).coreBound = s.coreBound := rfl
@[simp] theorem State.deliver_halted (c : Nibble) (P : List Byte) : (s.deliver c P).halted = s.halted := rfl
@[simp] theorem State.deliver_port (c : Nibble) (P : List Byte) : (s.deliver c P).port = s.port := rfl
@[simp] theorem State.deliver_inputs (c : Nibble) (P : List Byte) : (s.deliver c P).inputs = s.inputs := rfl
@[simp] theorem State.deliver_outputs (c : Nibble) (P : List Byte) : (s.deliver c P).outputs = s.outputs ++ [.dispatch c P P.length] := rfl
@[simp] theorem State.deliver_results (c : Nibble) (P : List Byte) : (s.deliver c P).results = s.results := rfl

/-! ## outTx -/

@[simp] theorem State.outTx_cfg (bs : List Byte) : (s.outTx bs).cfg = s.cfg := rfl
@[simp] theorem State.outTx_decState (bs : List Byte) : (s.outTx bs).decState = s.decState := rfl
@[simp] theorem State.outTx_acc (bs : List Byte) : (s.outTx bs).acc = s.acc := rfl
@[simp] theorem State.outTx_accEpoch (bs : List Byte) : (s.outTx bs).accEpoch = s.accEpoch := rfl
@[simp] theorem State.outTx_accByte (bs : List Byte) (x : Nat) : (s.outTx bs).accByte x = s.accByte x := rfl
@[simp] theorem State.outTx_accLen (bs : List Byte) : (s.outTx bs).accLen = s.accLen := rfl
@[simp] theorem State.outTx_coreBound (bs : List Byte) : (s.outTx bs).coreBound = s.coreBound := rfl
@[simp] theorem State.outTx_halted (bs : List Byte) : (s.outTx bs).halted = s.halted := rfl
@[simp] theorem State.outTx_port (bs : List Byte) : (s.outTx bs).port = s.port := rfl
@[simp] theorem State.outTx_inputs (bs : List Byte) : (s.outTx bs).inputs = s.inputs := rfl
@[simp] theorem State.outTx_outputs (bs : List Byte) : (s.outTx bs).outputs = s.outputs ++ bs.map .tx := rfl
@[simp] theorem State.outTx_results (bs : List Byte) : (s.outTx bs).results = s.results := rfl

/-! ## reply -/

@[simp] theorem State.reply_cfg (r : Option Result) : (s.reply r).cfg = s.cfg := rfl
@[simp] theorem State.reply_decState (r : Option Result) : (s.reply r).decState = s.decState := rfl
@[simp] theorem State.reply_acc (r : Option Result) : (s.reply r).acc = s.acc := rfl
@[simp] theorem State.reply_accEpoch (r : Option Result) : (s.reply r).accEpoch = s.accEpoch := rfl
@[simp] theorem State.reply_accByte (r : Option Result) (x : Nat) : (s.reply r).accByte x = s.accByte x := rfl
@[simp] theorem State.reply_accLen (r : Option Result) : (s.reply r).accLen = s.accLen := rfl
@[simp] theorem State.reply_coreBound (r : Option Result) : (s.reply r).coreBound = s.coreBound := rfl
@[simp] theorem State.reply_halted (r : Option Result) : (s.reply r).halted = s.halted := rfl
@[simp] theorem State.reply_port (r : Option Result) : (s.reply r).port = s.port := rfl
@[simp] theorem State.reply_inputs (r : Option Result) : (s.reply r).inputs = s.inputs := rfl
@[simp] theorem State.reply_outputs (r : Option Result) : (s.reply r).outputs = s.outputs := rfl
@[simp] theorem State.reply_results (r : Option Result) : (s.reply r).results = s.results ++ [r] := rfl

/-! ## raiseLinkFatal -/

@[simp] theorem State.raiseLinkFatal_cfg (k : LinkFatal) : (s.raiseLinkFatal k).cfg = s.cfg := rfl
@[simp] theorem State.raiseLinkFatal_decState (k : LinkFatal) : (s.raiseLinkFatal k).decState = s.decState := rfl
@[simp] theorem State.raiseLinkFatal_acc (k : LinkFatal) : (s.raiseLinkFatal k).acc = s.acc := rfl
@[simp] theorem State.raiseLinkFatal_accEpoch (k : LinkFatal) : (s.raiseLinkFatal k).accEpoch = s.accEpoch := rfl
@[simp] theorem State.raiseLinkFatal_accByte (k : LinkFatal) (x : Nat) : (s.raiseLinkFatal k).accByte x = s.accByte x := rfl
@[simp] theorem State.raiseLinkFatal_accLen (k : LinkFatal) : (s.raiseLinkFatal k).accLen = s.accLen := rfl
@[simp] theorem State.raiseLinkFatal_coreBound (k : LinkFatal) : (s.raiseLinkFatal k).coreBound = s.coreBound := rfl
@[simp] theorem State.raiseLinkFatal_halted (k : LinkFatal) : (s.raiseLinkFatal k).halted = true := rfl
@[simp] theorem State.raiseLinkFatal_port (k : LinkFatal) : (s.raiseLinkFatal k).port = s.port := rfl
@[simp] theorem State.raiseLinkFatal_inputs (k : LinkFatal) : (s.raiseLinkFatal k).inputs = s.inputs := rfl
@[simp] theorem State.raiseLinkFatal_outputs (k : LinkFatal) : (s.raiseLinkFatal k).outputs = s.outputs ++ [.event k.event] := rfl
@[simp] theorem State.raiseLinkFatal_results (k : LinkFatal) : (s.raiseLinkFatal k).results = s.results := rfl

/-! ## resetBlock -/

@[simp] theorem State.resetBlock_cfg : (s.resetBlock).cfg = s.cfg := rfl
@[simp] theorem State.resetBlock_decState : (s.resetBlock).decState = .skip := rfl
@[simp] theorem State.resetBlock_acc : (s.resetBlock).acc = [] := rfl
@[simp] theorem State.resetBlock_accEpoch : (s.resetBlock).accEpoch = s.accEpoch + 1 := rfl
@[simp] theorem State.resetBlock_accLen : (s.resetBlock).accLen = 0 := rfl
@[simp] theorem State.resetBlock_coreBound : (s.resetBlock).coreBound = 0 := rfl
@[simp] theorem State.resetBlock_halted : (s.resetBlock).halted = false := rfl
@[simp] theorem State.resetBlock_port : (s.resetBlock).port = s.port := rfl
@[simp] theorem State.resetBlock_inputs : (s.resetBlock).inputs = s.inputs := rfl
@[simp] theorem State.resetBlock_outputs : (s.resetBlock).outputs = s.outputs := rfl
@[simp] theorem State.resetBlock_results : (s.resetBlock).results = s.results := rfl

/-! ## takeUp -/

@[simp] theorem State.takeUp_cfg (op : HostOp) (rest : List HostOp) : (s.takeUp op rest).cfg = s.cfg := rfl
@[simp] theorem State.takeUp_decState (op : HostOp) (rest : List HostOp) : (s.takeUp op rest).decState = s.decState := rfl
@[simp] theorem State.takeUp_acc (op : HostOp) (rest : List HostOp) : (s.takeUp op rest).acc = s.acc := rfl
@[simp] theorem State.takeUp_accEpoch (op : HostOp) (rest : List HostOp) : (s.takeUp op rest).accEpoch = s.accEpoch := rfl
@[simp] theorem State.takeUp_accByte (op : HostOp) (rest : List HostOp) (x : Nat) : (s.takeUp op rest).accByte x = s.accByte x := rfl
@[simp] theorem State.takeUp_accLen (op : HostOp) (rest : List HostOp) : (s.takeUp op rest).accLen = s.accLen := rfl
@[simp] theorem State.takeUp_coreBound (op : HostOp) (rest : List HostOp) : (s.takeUp op rest).coreBound = s.coreBound := rfl
@[simp] theorem State.takeUp_halted (op : HostOp) (rest : List HostOp) : (s.takeUp op rest).halted = s.halted := rfl
@[simp] theorem State.takeUp_port (op : HostOp) (rest : List HostOp) : (s.takeUp op rest).port = op.operands := rfl
@[simp] theorem State.takeUp_inputs (op : HostOp) (rest : List HostOp) : (s.takeUp op rest).inputs = rest := rfl
@[simp] theorem State.takeUp_outputs (op : HostOp) (rest : List HostOp) : (s.takeUp op rest).outputs = s.outputs := rfl
@[simp] theorem State.takeUp_results (op : HostOp) (rest : List HostOp) : (s.takeUp op rest).results = s.results := rfl

/-! ## withNextOp -/

@[simp] theorem State.withNextOp_cfg (op : HostOp) : (s.withNextOp op).cfg = s.cfg := rfl
@[simp] theorem State.withNextOp_decState (op : HostOp) : (s.withNextOp op).decState = s.decState := rfl
@[simp] theorem State.withNextOp_acc (op : HostOp) : (s.withNextOp op).acc = s.acc := rfl
@[simp] theorem State.withNextOp_accEpoch (op : HostOp) : (s.withNextOp op).accEpoch = s.accEpoch := rfl
@[simp] theorem State.withNextOp_accByte (op : HostOp) (x : Nat) : (s.withNextOp op).accByte x = s.accByte x := rfl
@[simp] theorem State.withNextOp_accLen (op : HostOp) : (s.withNextOp op).accLen = s.accLen := rfl
@[simp] theorem State.withNextOp_coreBound (op : HostOp) : (s.withNextOp op).coreBound = s.coreBound := rfl
@[simp] theorem State.withNextOp_halted (op : HostOp) : (s.withNextOp op).halted = s.halted := rfl
@[simp] theorem State.withNextOp_port (op : HostOp) : (s.withNextOp op).port = s.port := rfl
@[simp] theorem State.withNextOp_inputs (op : HostOp) : (s.withNextOp op).inputs = op :: s.inputs.tail := rfl
@[simp] theorem State.withNextOp_outputs (op : HostOp) : (s.withNextOp op).outputs = s.outputs := rfl
@[simp] theorem State.withNextOp_results (op : HostOp) : (s.withNextOp op).results = s.results := rfl

/-! ## withReq -/

@[simp] theorem State.withReq_cfg (r : Byte) : (s.withReq r).cfg = s.cfg := rfl
@[simp] theorem State.withReq_decState (r : Byte) : (s.withReq r).decState = s.decState := rfl
@[simp] theorem State.withReq_acc (r : Byte) : (s.withReq r).acc = s.acc := rfl
@[simp] theorem State.withReq_accEpoch (r : Byte) : (s.withReq r).accEpoch = s.accEpoch := rfl
@[simp] theorem State.withReq_accByte (r : Byte) (x : Nat) : (s.withReq r).accByte x = s.accByte x := rfl
@[simp] theorem State.withReq_accLen (r : Byte) : (s.withReq r).accLen = s.accLen := rfl
@[simp] theorem State.withReq_coreBound (r : Byte) : (s.withReq r).coreBound = s.coreBound := rfl
@[simp] theorem State.withReq_halted (r : Byte) : (s.withReq r).halted = s.halted := rfl
@[simp] theorem State.withReq_port (r : Byte) : (s.withReq r).port = { s.port with req := r } := rfl
@[simp] theorem State.withReq_inputs (r : Byte) : (s.withReq r).inputs = s.inputs := rfl
@[simp] theorem State.withReq_outputs (r : Byte) : (s.withReq r).outputs = s.outputs := rfl
@[simp] theorem State.withReq_results (r : Byte) : (s.withReq r).results = s.results := rfl

/-! ## withDec -/

@[simp] theorem State.withDec_cfg (d : DecState) : (s.withDec d).cfg = s.cfg := rfl
@[simp] theorem State.withDec_decState (d : DecState) : (s.withDec d).decState = d := rfl
@[simp] theorem State.withDec_acc (d : DecState) : (s.withDec d).acc = s.acc := rfl
@[simp] theorem State.withDec_accEpoch (d : DecState) : (s.withDec d).accEpoch = s.accEpoch := rfl
@[simp] theorem State.withDec_accByte (d : DecState) (x : Nat) : (s.withDec d).accByte x = s.accByte x := rfl
@[simp] theorem State.withDec_accLen (d : DecState) : (s.withDec d).accLen = s.accLen := rfl
@[simp] theorem State.withDec_coreBound (d : DecState) : (s.withDec d).coreBound = s.coreBound := rfl
@[simp] theorem State.withDec_halted (d : DecState) : (s.withDec d).halted = s.halted := rfl
@[simp] theorem State.withDec_port (d : DecState) : (s.withDec d).port = s.port := rfl
@[simp] theorem State.withDec_inputs (d : DecState) : (s.withDec d).inputs = s.inputs := rfl
@[simp] theorem State.withDec_outputs (d : DecState) : (s.withDec d).outputs = s.outputs := rfl
@[simp] theorem State.withDec_results (d : DecState) : (s.withDec d).results = s.results := rfl

/-! ## resync -/

@[simp] theorem resync_cfg (e : Event) : (resync e s).cfg = s.cfg := rfl
@[simp] theorem resync_decState (e : Event) : (resync e s).decState = .inPkt := rfl
@[simp] theorem resync_acc (e : Event) : (resync e s).acc = s.acc := rfl
@[simp] theorem resync_accEpoch (e : Event) : (resync e s).accEpoch = s.accEpoch := rfl
@[simp] theorem resync_accByte (e : Event) (x : Nat) : (resync e s).accByte x = s.accByte x := rfl
@[simp] theorem resync_accLen (e : Event) : (resync e s).accLen = 0 := rfl
@[simp] theorem resync_coreBound (e : Event) : (resync e s).coreBound = s.coreBound := rfl
@[simp] theorem resync_halted (e : Event) : (resync e s).halted = s.halted := rfl
@[simp] theorem resync_port (e : Event) : (resync e s).port = s.port := rfl
@[simp] theorem resync_inputs (e : Event) : (resync e s).inputs = s.inputs := rfl
@[simp] theorem resync_outputs (e : Event) : (resync e s).outputs = s.outputs ++ [.event e] := rfl
@[simp] theorem resync_results (e : Event) : (resync e s).results = s.results := rfl

end Sys2Proof.Machine
end

