-- ==== Sys2Proof/Laws/Ops.lean ====
section
/-! SUPPORT. What each shared operation can do, said once: the accumulator's accesses, the validator, the
decoder's helpers and the decoder's step. -/

namespace Sys2Proof.Machine

/-! ## Stopping and finishing -/

@[simp] theorem State.running_of_not_halted (s : State) (k : Answer) (h : s.halted = false) :
    s.running k = k := by simp [State.running, h]

@[simp] theorem State.running_of_halted (s : State) (k : Answer) (h : s.halted = true) :
    s.running k = .fault .halted := by simp [State.running, h]

theorem State.running_next {s t : State} {k : Answer} (h : s.running k = .next t) :
    s.halted = false ∧ k = .next t := by
  unfold State.running at h
  split at h
  · cases h
  · exact ⟨by simpa using ‹¬ s.halted = true›, h⟩

theorem finish_next {e : Except Fault State} {t : State} (h : finish e = .next t) :
    ∃ u, e = .ok u ∧ t = u.reply none := by
  cases e with
  | error f => cases h
  | ok u => exact ⟨u, rfl, by simpa [finish] using h.symm⟩

/-! ## The accumulator -/

/-- A memory write, where it answers, changes ACC and nothing else. -/
theorem State.memWrite_ok {s t : State} {a : Nat} {v : Byte} (h : s.memWrite a v = .ok t) :
    a < rxCap s.cfg ∧ t = { s with acc := s.acc.write a v } := by
  unfold State.memWrite at h
  split at h
  · exact ⟨‹_›, by simpa using h.symm⟩
  · cases h

/-- A byte that was written is the byte that stands there. -/
theorem State.accByte_of_read {s : State} {a : Nat} {v : Byte} (h : s.acc.read a = some v) :
    s.accByte a = v := by simp [State.accByte, h]

/-- The bytes of ACC depend on what was written and on which contents are unspecified, on nothing else. -/
theorem State.accByte_congr {s t : State} (ha : t.acc = s.acc) (he : t.accEpoch = s.accEpoch) (a : Nat) :
    t.accByte a = s.accByte a := by simp only [State.accByte, ha, he]

@[simp] theorem answers_accByte (s : State) (os : List Output) (r : Option Result) (a : Nat) :
    (Claims.answers s os r).accByte a = s.accByte a := rfl

/-- The bytes of ACC after a write: the one written, and every other as before. -/
@[simp] theorem State.accByte_write (s : State) (a x : Nat) (v : Byte) :
    ({ s with acc := s.acc.write a v } : State).accByte x = if x = a then v else s.accByte x := by
  split
  · subst x; exact accByte_of_read (Memory.read_write_same _ _ _)
  · simp [State.accByte, Memory.read_write_other _ _ _ _ ‹_›]

theorem State.memRead_ok {s : State} {a : Nat} {v : Byte} (h : s.memRead a = .ok v) :
    a < rxCap s.cfg ∧ s.accByte a = v := by
  unfold State.memRead at h
  split at h
  · exact ⟨‹_›, by simpa using h⟩
  · cases h

/-- Reading a run of bytes answers what stands there, in order. -/
theorem State.memReadFrom_eq (s : State) (F : List Byte) (a : Nat) (hcap : a + F.length ≤ rxCap s.cfg)
    (h : ∀ i (hi : i < F.length), s.accByte (a + i) = F[i]) :
    s.memReadFrom a F.length = .ok F := by
  induction F generalizing a with
  | nil => rfl
  | cons v F ih =>
    have h0 : s.accByte a = v := h 0 (by simp)
    have hlt : a < rxCap s.cfg := by simp only [List.length_cons] at hcap; omega
    have hrest : s.memReadFrom (a + 1) F.length = .ok F := by
      refine ih (a + 1) (by simp only [List.length_cons] at hcap; omega) ?_
      intro i hi
      have := h (i + 1) (by simpa using hi)
      simpa [Nat.add_assoc, Nat.add_comm 1 i] using this
    simp [State.memReadFrom, State.memRead, hlt, h0, hrest]

/-- A run of bytes that was read has its length, and holds the bytes that stand there. -/
theorem State.memReadFrom_ok {s : State} {n a : Nat} {F : List Byte} (h : s.memReadFrom a n = .ok F) :
    F.length = n ∧ ∀ i (hi : i < F.length), s.accByte (a + i) = F[i] := by
  induction n generalizing a F with
  | zero => cases h; simp
  | succ n ih =>
    unfold State.memReadFrom at h
    split at h
    · cases h
    · rename_i v hv
      split at h
      · cases h
      · rename_i vs hvs
        cases h
        obtain ⟨hl, hr⟩ := ih hvs
        refine ⟨by simp [hl], ?_⟩
        intro i hi
        cases i with
        | zero => simpa using (State.memRead_ok hv).2
        | succ i =>
          have := hr i (by simpa using hi)
          simpa [Nat.add_assoc, Nat.add_comm 1 i] using this

/-- A run of bytes reads alike in states whose ACC and parameters are alike. -/
theorem State.memReadFrom_congr {s t : State} (ha : t.acc = s.acc) (he : t.accEpoch = s.accEpoch)
    (hc : t.cfg = s.cfg) (a n : Nat) : t.memReadFrom a n = s.memReadFrom a n := by
  induction n generalizing a with
  | zero => rfl
  | succ n ih => simp only [State.memReadFrom, State.memRead, State.accByte_congr ha he, hc, ih]

/-! ## The validator -/

/-- The validator puts out one outcome (an event of class (d) or (e), or a dispatch) and changes nothing
else. -/
theorem validateAndRoute_cases (F : List Byte) (req : Byte) (s : State) :
    ∃ v o, validateAndRoute F req s = (v, s.emit [o]) ∧
      ((∃ c e, v = .reject c ∧ o = .event e ∧ e.kind = .validation) ∨
       (∃ c, v = .acceptUnrouted ∧ o = .event (.routeMiss c) ∧ s.isBound c = false) ∨
       (∃ c, v = .acceptDispatched ∧ o = .dispatch c (stripCrc F) (stripCrc F).length ∧
         s.isBound c = true)) := by
  have hrej : ∀ (c : RejectCode) (e : Event), e.kind = .validation →
      ∃ v o, reject c e s = (v, s.emit [o]) ∧
        ((∃ c e, v = .reject c ∧ o = .event e ∧ e.kind = .validation) ∨
         (∃ c, v = .acceptUnrouted ∧ o = .event (.routeMiss c) ∧ s.isBound c = false) ∨
         (∃ c, v = .acceptDispatched ∧ o = .dispatch c (stripCrc F) (stripCrc F).length ∧
           s.isBound c = true)) :=
    fun c e he => ⟨_, _, rfl, .inl ⟨c, e, rfl, rfl, he⟩⟩
  unfold validateAndRoute
  split
  · exact hrej _ _ rfl
  split
  · exact hrej _ _ rfl
  dsimp only
  split
  · exact hrej _ _ rfl
  split
  · exact hrej _ _ rfl
  split
  · exact hrej _ _ rfl
  unfold accept
  split
  · exact ⟨_, _, rfl, .inr (.inr ⟨_, rfl, rfl, by assumption⟩)⟩
  · rename_i hb
    exact ⟨_, _, rfl, .inr (.inl ⟨_, rfl, rfl, by simpa using hb⟩)⟩

/-! ## The decoder -/

/-- An append, where it answers, stores one byte at ACC_LEN, or overflows and resynchronises. -/
theorem append_cases {v : Byte} {s t : State} (h : append v s = .ok t) :
    (s.accLen = rxCap s.cfg ∧ t = resync (.framingOverflow s.accLen) s) ∨
    (s.accLen < rxCap s.cfg ∧
      t = { s with acc := s.acc.write s.accLen v, accLen := s.accLen + 1, decState := .inPkt }) := by
  unfold append at h
  split at h
  · exact .inl ⟨‹_›, by simpa using h.symm⟩
  · split at h
    · cases h
    · rename_i u hu
      obtain ⟨hlt, rfl⟩ := State.memWrite_ok hu
      exact .inr ⟨hlt, by cases h; rfl⟩

/-- The emission of a frame, where it answers, does nothing on an empty accumulator; else it empties the
accumulator, logs the frame and puts out one outcome. -/
theorem emitFrame_cases {s t : State} (h : emitFrame s = .ok t) :
    (s.accLen = 0 ∧ t = s) ∨
    (0 < s.accLen ∧ ∃ F o, s.memReadFrom 0 s.accLen = .ok F ∧ o.isOutcome = true ∧
      t = { s with accLen := 0, outputs := s.outputs ++ [.event (.rxFrame F), o] }) := by
  unfold emitFrame at h
  split at h
  · split at h
    · cases h
    · rename_i F hF
      obtain ⟨v, o, hv, ho⟩ := validateAndRoute_cases F s.port.req ((s.withAccLen 0).log (.rxFrame F))
      rw [hv] at h
      refine .inr ⟨by assumption, F, o, hF, ?_, ?_⟩
      · rcases ho with ⟨c, e, -, rfl, he⟩ | ⟨c, -, rfl, -⟩ | ⟨c, -, rfl, -⟩
        · simp [Output.isOutcome, he]
        · simp [Output.isOutcome, Event.kind]
        · rfl
      · cases h
        simp [State.emit, State.log, State.withAccLen]
  · exact .inl ⟨by omega, by simpa using h.symm⟩

/-- Reading ACC does not depend on DEC_STATE. -/
theorem State.withDec_memReadFrom (s : State) (d : DecState) (a n : Nat) :
    (s.withDec d).memReadFrom a n = s.memReadFrom a n :=
  State.memReadFrom_congr (s := s) (t := s.withDec d) rfl rfl rfl a n

/-- The transitions of the table of R130, as what the state after can be. -/
inductive DecoderStep (b : Byte) (s t : State) : Prop where
  /-- zero fill is discarded -/
  | discard (hd : s.decState = .skip) (hb : b = 0x00) (ht : t = s)
  /-- END with an empty accumulator -/
  | emptyFrame (hd : s.decState ≠ .inEsc) (hb : b = byteEND) (h0 : s.accLen = 0)
      (ht : t = s.withDec .inPkt)
  /-- END completes a frame -/
  | frame (hd : s.decState ≠ .inEsc) (hb : b = byteEND) (h0 : 0 < s.accLen) (F : List Byte) (o : Output)
      (hF : s.memReadFrom 0 s.accLen = .ok F) (ho : o.isOutcome = true)
      (ht : t = { s with decState := .inPkt, accLen := 0,
                         outputs := s.outputs ++ [.event (.rxFrame F), o] })
  /-- ESC begins an escape -/
  | escape (hd : s.decState ≠ .inEsc) (hb : b = byteESC) (ht : t = s.withDec .inEsc)
  /-- a framing violation -/
  | violation (e : Event) (he : e.kind = .framing) (ht : t = resync e s)
  /-- a byte of data is stored -/
  | store (v : Byte) (hlt : s.accLen < rxCap s.cfg)
      (ht : t = { s with acc := s.acc.write s.accLen v, accLen := s.accLen + 1, decState := .inPkt })

theorem DecoderStep.of_append {b v : Byte} {s u t : State} (hu : u = s ∨ u = s.withDec .inPkt)
    (h : append v u = .ok t) : DecoderStep b s t := by
  rcases append_cases h with ⟨-, rfl⟩ | ⟨hlt, rfl⟩
  · exact .violation (.framingOverflow s.accLen) rfl (by rcases hu with rfl | rfl <;> rfl)
  · exact .store v (by rcases hu with rfl | rfl <;> simpa using hlt) (by rcases hu with rfl | rfl <;> rfl)

theorem DecoderStep.of_receiveInPkt {b : Byte} {s t : State} (hd : s.decState ≠ .inEsc)
    (h : receiveInPkt b (s.withDec .inPkt) = .ok t) : DecoderStep b s t := by
  unfold receiveInPkt at h
  split at h
  · rcases emitFrame_cases h with ⟨h0, rfl⟩ | ⟨hpos, F, o, hF, ho, rfl⟩
    · exact .emptyFrame hd ‹_› (by simpa using h0) rfl
    · exact .frame hd ‹_› (by simpa using hpos) F o
        (by rw [← State.withDec_memReadFrom]; simpa using hF) ho rfl
  split at h
  · exact .escape hd ‹_› (by cases h; rfl)
  · exact .of_append (.inr rfl) h

/-- The decoder's step, where it answers: every transition it can take. -/
theorem receive_cases {b : Byte} {s t : State} (h : receive b s = .ok t) : DecoderStep b s t := by
  unfold receive at h
  split at h
  · rename_i hd
    split at h
    · exact .discard hd ‹_› (by simpa using h.symm)
    · exact .of_receiveInPkt (by simp [hd]) h
  · rename_i hd
    have hs : s.withDec .inPkt = s := by cases s; simp_all [State.withDec]
    exact .of_receiveInPkt (by simp [hd]) (by rw [hs]; exact h)
  · unfold receiveInEsc at h
    split at h
    · exact .of_append (.inl rfl) h
    split at h
    · exact .of_append (.inl rfl) h
    split at h
    · exact .violation _ rfl (by simpa using h.symm)
    split at h
    · exact .violation _ rfl (by simpa using h.symm)
    · exact .violation _ rfl (by simpa using h.symm)

/-! ## Reads -/

/-- The bytes of a read, in two parts. -/
theorem rxChunk_append (x y : List Received) (s : State) :
    rxChunk (x ++ y) s =
      match rxChunk x s with
      | .next t => rxChunk y t
      | .fault f => .fault f
      | .refused r => .refused r := by
  induction x generalizing s with
  | nil => rfl
  | cons r rs ih =>
    simp only [List.cons_append, rxChunk]
    cases exec (.rxByte r.byte) (s.withReq r.req) <;> simp [ih]

end Sys2Proof.Machine
end

