-- ==== Sys2Proof/Laws/Exec.lean ====
section
/-! SUPPORT. What one operation can do, said once: where `exec` answers a next state, that state is one of a
few shapes. Statements about every instruction follow from this inversion. -/

namespace Sys2Proof.Machine

open Sys2Proof.Claims

/-- The shapes of the state after an operation. -/
inductive Effect (i : Instr) (s t : State) : Prop where
  /-- outputs and a result, nothing else: the CRC unit, ENCODE, SEND, PARSE, the command byte rows, and
  RX_STATUS WOULDBLOCK -/
  | answer (hi : isByteFeed i = false) (os : List Output) (r : Option Result) (ht : t = answers s os r)
  /-- RX_BYTE or a link byte row: a transition of the decoder -/
  | decoder (hi : isByteFeed i = true) (b : Byte) (u : State) (hu : DecoderStep b s u)
      (ht : t = u.reply none)
  /-- BIND -/
  | bind (c : Nibble) (hi : i = .bind c) (hc : c.toNat < s.cfg.numCores)
      (ht : t = (s.bindCore c).reply none)
  /-- RX_STATUS EOF or ERROR -/
  | halt (st : LinkStatus) (hi : i = .rxStatus st) (k : LinkFatal)
      (ht : t = (s.raiseLinkFatal k).reply none)
  /-- RESET -/
  | reset (hi : i = .reset) (ht : t = s.resetBlock.reply none)

theorem reply_eq_answers (s : State) (r : Option Result) : s.reply r = answers s [] r := by
  simp [State.reply, answers]

theorem log_reply_eq_answers (s : State) (e : Event) (r : Option Result) :
    (s.log e).reply r = answers s [.event e] r := rfl

/-- The validator's verdict as a result: one outcome put out, nothing else changed. -/
theorem replyVerdict_emit (v : Verdict) (s : State) (o : Output) :
    replyVerdict (v, s.emit [o]) = answers s [o] (some (.verdict v)) := rfl

/-- A rejection or a routing of the validator: one outcome, and the verdict. -/
theorem validateAndRoute_answers (F : List Byte) (req : Byte) (s : State) :
    ∃ o v, replyVerdict (validateAndRoute F req s) = answers s [o] (some (.verdict v)) := by
  obtain ⟨v, o, h, -⟩ := validateAndRoute_cases F req s
  exact ⟨o, v, by rw [h, replyVerdict_emit]⟩

theorem accept_answers (F : List Byte) (c : Nibble) (s : State) :
    ∃ o v, accept F c s = (v, s.emit [o]) := by
  unfold accept
  split
  · exact ⟨_, _, rfl⟩
  · exact ⟨_, _, rfl⟩

theorem withValidCore_answers {F : List Byte} {s : State} {k : Nibble → Verdict × State}
    (hk : ∀ c, ∃ o v, k c = (v, s.emit [o])) : ∃ o v, withValidCore F s k = (v, s.emit [o]) := by
  unfold withValidCore
  dsimp only
  split
  · exact hk _
  · exact ⟨_, _, rfl⟩

/-- A command byte row, where it answers, puts out one outcome and returns a verdict. -/
theorem judge_next {F : List Byte} {s t : State} {r : Verdict × State} (h : judge F s r = .next t)
    (hr : ∃ o v, r = (v, s.emit [o])) : ∃ o v, t = answers s [o] (some (.verdict v)) := by
  unfold judge at h
  split at h
  · cases h
  · obtain ⟨-, h⟩ := State.running_next h
    cases h
    unfold integrityReject
    split
    · exact ⟨_, _, rfl⟩
    split
    · exact ⟨_, _, rfl⟩
    · obtain ⟨o, v, rfl⟩ := hr
      exact ⟨o, v, rfl⟩

/-- SEND's outcome of a write, in one shape. -/
theorem writeOutcome_answers (wr : WriteAnswer) (W F : List Byte) (s : State) :
    ∃ os r, writeOutcome wr W F s = answers s os r := by
  unfold writeOutcome
  split
  · dsimp only
    split
    · exact ⟨_, _, rfl⟩
    · rename_i n _
      exact ⟨(W.take n).map .tx ++ [.event (.txShort n)], some (.sent (-1) F), by
        simp [State.outTx, State.log, State.emit, State.reply, answers, List.append_assoc]⟩
  · exact ⟨_, _, rfl⟩
  · exact ⟨_, _, rfl⟩

theorem execSend_next {dest : Nibble} {s t : State} (h : execSend dest s = .next t) :
    ∃ os r, t = answers s os r := by
  unfold execSend at h
  obtain ⟨-, h⟩ := State.running_next h
  split at h
  · cases h; exact ⟨_, _, rfl⟩
  dsimp only at h
  split at h
  · cases h; exact ⟨_, _, rfl⟩
  split at h
  · cases h; exact ⟨_, _, rfl⟩
  · cases h; exact writeOutcome_answers _ _ _ s

theorem execEncode_next {s t : State} (h : execEncode s = .next t) : ∃ r, t = s.reply r := by
  unfold execEncode at h
  obtain ⟨-, h⟩ := State.running_next h
  split at h <;> (cases h; exact ⟨_, rfl⟩)

/-- A column of the table of R130 whose byte is data in SKIP and INPKT. -/
theorem dataColumn_step {v b : Byte} {s u : State} {e : Except Fault State}
    (he : ∀ w, s.decState = .inEsc → e = .ok w → DecoderStep b s w)
    (h : (match s.decState with
      | .skip => append v (s.withDec .inPkt)
      | .inPkt => append v s
      | .inEsc => e) = .ok u) : DecoderStep b s u := by
  split at h
  · exact .of_append (.inr rfl) h
  · exact .of_append (.inl rfl) h
  · exact he u ‹_› h

/-- What one operation can do. -/
theorem exec_effect {i : Instr} {s t : State} (h : exec i s = .next t) : Effect i s t := by
  have feed : ∀ {b : Byte} {e : Except Fault State}, (∀ u, e = .ok u → receive b s = .ok u) →
      isByteFeed i = true → s.running (finish e) = .next t → Effect i s t := by
    intro b e he hi hn
    obtain ⟨u, hu, ht⟩ := finish_next (State.running_next hn).2
    exact .decoder hi b u (receive_cases (he u hu)) ht
  have step : ∀ {b : Byte} {e : Except Fault State}, isByteFeed i = true →
      s.running (finish e) = .next t → (∀ {u}, e = .ok u → DecoderStep b s u) → Effect i s t := by
    intro b e hi hn he
    obtain ⟨u, hu, ht⟩ := finish_next (State.running_next hn).2
    exact .decoder hi b u (he hu) ht
  cases i with
  | crcStep b => exact .answer rfl [] _ (by cases (State.running_next h).2; exact reply_eq_answers _ _)
  | crcBlock => exact .answer rfl [] _ (by cases (State.running_next h).2; exact reply_eq_answers _ _)
  | encode => obtain ⟨r, rfl⟩ := execEncode_next h; exact .answer rfl [] r (reply_eq_answers _ _)
  | send dest => obtain ⟨os, r, rfl⟩ := execSend_next h; exact .answer rfl os r rfl
  | rxByte b => exact feed (b := b) (fun _ hu => hu) rfl h
  | rxStatus st =>
    have h := (State.running_next h).2
    cases st with
    | wouldBlock => cases h; exact .answer rfl [] _ (reply_eq_answers _ _)
    | eof => cases h; exact .halt _ rfl .eof rfl
    | error => cases h; exact .halt _ rfl .error rfl
  | parse req =>
    unfold exec execParse at h
    dsimp only at h
    split at h
    · cases h
    · cases (State.running_next h).2
      obtain ⟨o, v, e⟩ := validateAndRoute_answers s.port.data req s
      exact .answer rfl _ _ e
  | bind c =>
    unfold exec execBind at h
    dsimp only at h
    split at h
    · cases (State.running_next h).2
      exact .bind c rfl ‹_› rfl
    · cases h
  | reset => cases h; exact .reset rfl rfl
  | cmdNop a b c => obtain ⟨o, v, rfl⟩ := judge_next h ⟨_, _, rfl⟩; exact .answer rfl _ _ rfl
  | cmdRead a b c =>
    obtain ⟨o, v, rfl⟩ := judge_next h (withValidCore_answers fun c => by
      split
      · exact accept_answers _ _ _
      · exact ⟨_, _, rfl⟩)
    exact .answer rfl _ _ rfl
  | cmdWrite a b c =>
    obtain ⟨o, v, rfl⟩ := judge_next h (withValidCore_answers fun c => accept_answers _ _ _)
    exact .answer rfl _ _ rfl
  | cmdWrrd a b c =>
    obtain ⟨o, v, rfl⟩ := judge_next h (by
      split
      · exact withValidCore_answers fun c => accept_answers _ _ _
      · exact ⟨_, _, rfl⟩)
    exact .answer rfl _ _ rfl
  | lbEnd =>
    refine feed (b := byteEND) (fun u hu => ?_) rfl h
    unfold receive receiveInPkt receiveInEsc
    split at hu <;> simp_all [byteEND, byteESCEND, byteESCESC]
  | lbEsc =>
    refine feed (b := byteESC) (fun u hu => ?_) rfl h
    unfold receive receiveInPkt receiveInEsc
    split at hu <;> simp_all [byteEND, byteESC, byteESCEND, byteESCESC, State.withDec]
  | lbEscEnd => exact step (b := byteESCEND) rfl h (dataColumn_step fun _ _ hw => .of_append (.inl rfl) hw)
  | lbEscEsc => exact step (b := byteESCESC) rfl h (dataColumn_step fun _ _ hw => .of_append (.inl rfl) hw)
  | lbZero =>
    refine feed (b := 0x00) (fun u hu => ?_) rfl h
    unfold receive receiveInPkt receiveInEsc
    split at hu <;> simp_all [byteEND, byteESC, byteESCEND, byteESCESC]
  | lbOther b =>
    exact step (b := b) rfl h (dataColumn_step fun _ _ hw => .violation _ rfl (by cases hw; rfl))

end Sys2Proof.Machine
end

