-- ==== Sys2Proof/Laws/PerInstr.lean ====
section
/-! SUPPORT. Laws stated for every instruction, one lemma a constructor. The family TableRow: under the
default CMD_LAYOUT an instruction's word has its row's format, and agrees with the row's match on the
row's mask (spec/opcode_table.json). -/

namespace Sys2Proof.Laws.TableRow

/-- The bits of a word, and their number. -/
def bitsOf : CommandWord → Nat × Nat
  | .cmd16 w => (16, w.toNat)
  | .pktCmd8 b => (8, b.toNat)
  | .linkByte8 b => (8, b.toNat)

/-- Bits, mask and match of an instruction's row. -/
def row : Instr → Nat × Nat × Nat
  | .crcStep _ => (16, 0xFF00, 0x1000)
  | .crcBlock => (16, 0xFFFF, 0x2000)
  | .encode => (16, 0xFFFF, 0x3000)
  | .send _ => (16, 0xFFF0, 0x4000)
  | .rxByte _ => (16, 0xFF00, 0x5000)
  | .rxStatus _ => (16, 0xFCFF, 0x6000)
  | .parse _ => (16, 0xFF00, 0x7000)
  | .bind _ => (16, 0xFFF0, 0x8000)
  | .reset => (16, 0xFFFF, 0xF000)
  | .cmdNop _ _ _ => (8, 0x06, 0x00)
  | .cmdRead _ _ _ => (8, 0x06, 0x02)
  | .cmdWrite _ _ _ => (8, 0x06, 0x04)
  | .cmdWrrd _ _ _ => (8, 0x06, 0x06)
  | .lbEnd => (8, 0xFF, 0xC0)
  | .lbEsc => (8, 0xFF, 0xDB)
  | .lbEscEnd => (8, 0xFF, 0xDC)
  | .lbEscEsc => (8, 0xFF, 0xDD)
  | .lbZero => (8, 0xFF, 0x00)
  | .lbOther _ => (8, 0x00, 0x00)

/-- The instruction's word is a word of its row. -/
def Statement (i : Instr) : Prop :=
  let bits := bitsOf (encodeWord Config.default.layout i)
  bits.1 = (row i).1 ∧ bits.2 &&& (row i).2.1 = (row i).2.2

theorem crcStep (b : Byte) : Statement (.crcStep b) := by revert b; unfold Statement; decide
theorem crcBlock : Statement .crcBlock := by unfold Statement; decide
theorem encode : Statement .encode := by unfold Statement; decide
theorem send (dest : Nibble) : Statement (.send dest) := by revert dest; unfold Statement; decide
theorem rxByte (b : Byte) : Statement (.rxByte b) := by revert b; unfold Statement; decide
theorem rxStatus (status : LinkStatus) : Statement (.rxStatus status) := by
  cases status <;> (unfold Statement; decide)
theorem parse (req : Byte) : Statement (.parse req) := by revert req; unfold Statement; decide
theorem bind (core : Nibble) : Statement (.bind core) := by revert core; unfold Statement; decide
theorem reset : Statement .reset := by unfold Statement; decide
theorem cmdNop (sentinel : Nibble) (auto inc : Bool) : Statement (.cmdNop sentinel auto inc) := by
  revert sentinel auto inc; unfold Statement; decide
theorem cmdRead (sentinel : Nibble) (auto inc : Bool) : Statement (.cmdRead sentinel auto inc) := by
  revert sentinel auto inc; unfold Statement; decide
theorem cmdWrite (sentinel : Nibble) (auto inc : Bool) : Statement (.cmdWrite sentinel auto inc) := by
  revert sentinel auto inc; unfold Statement; decide
theorem cmdWrrd (sentinel : Nibble) (auto inc : Bool) : Statement (.cmdWrrd sentinel auto inc) := by
  revert sentinel auto inc; unfold Statement; decide
theorem lbEnd : Statement .lbEnd := by unfold Statement; decide
theorem lbEsc : Statement .lbEsc := by unfold Statement; decide
theorem lbEscEnd : Statement .lbEscEnd := by unfold Statement; decide
theorem lbEscEsc : Statement .lbEscEsc := by unfold Statement; decide
theorem lbZero : Statement .lbZero := by unfold Statement; decide
theorem lbOther (b : Byte) : Statement (.lbOther b) := by revert b; unfold Statement; decide

end Sys2Proof.Laws.TableRow
end

