-- ==== Sys2Proof/Laws/Run.lean ====
section
/-! SUPPORT. What a run can do, said once: its end and its final state against `run`, where it stops, and its
parts. -/

namespace Sys2Proof.Machine

/-- The answer of a number of steps is how they end, with the final state where all of them completed. -/
theorem run_eq_runTo (n : Nat) (s : State) :
    run n s =
      match runTo n s with
      | (.afterLast, t) => .next t
      | (.noStep f, _) => .fault f
      | (.refused r, _) => .refused r := by
  induction n generalizing s with
  | zero => rfl
  | succ n ih => simp only [run, runTo]; cases step s <;> simp [ih]

/-- A run in two parts: the second begins where the first ended, if that completed. -/
theorem runTo_add (m n : Nat) (s : State) :
    runTo (m + n) s =
      match runTo m s with
      | (.afterLast, t) => runTo n t
      | (.noStep f, t) => (.noStep f, t)
      | (.refused r, t) => (.refused r, t) := by
  induction m generalizing s with
  | zero => simp [runTo]
  | succ m ih =>
    rw [Nat.succ_add]
    simp only [runTo]
    cases step s <;> simp [ih]

/-- A run that stops ends in the state whose next operation has no step: none of that operation's effect is
there. -/
theorem runTo_stop {n : Nat} {s t : State} :
    (∀ f, runTo n s = (.noStep f, t) → step t = .fault f) ∧
    (∀ r, runTo n s = (.refused r, t) → step t = .refused r) := by
  induction n generalizing s with
  | zero => exact ⟨by simp [runTo], by simp [runTo]⟩
  | succ n ih =>
    simp only [runTo]
    cases h : step s with
    | next u => exact ih
    | fault f => exact ⟨by rintro g ⟨rfl, rfl⟩; exact h, by simp⟩
    | refused r => exact ⟨by simp, by rintro g ⟨rfl, rfl⟩; exact h⟩

/-! ## startRun, field by field -/

variable (s : State) (ops : List HostOp)

@[simp] theorem State.startRun_cfg : (s.startRun ops).cfg = s.cfg := rfl
@[simp] theorem State.startRun_decState : (s.startRun ops).decState = s.decState := rfl
@[simp] theorem State.startRun_acc : (s.startRun ops).acc = s.acc := rfl
@[simp] theorem State.startRun_accEpoch : (s.startRun ops).accEpoch = s.accEpoch := rfl
@[simp] theorem State.startRun_accLen : (s.startRun ops).accLen = s.accLen := rfl
@[simp] theorem State.startRun_coreBound : (s.startRun ops).coreBound = s.coreBound := rfl
@[simp] theorem State.startRun_halted : (s.startRun ops).halted = s.halted := rfl
@[simp] theorem State.startRun_port : (s.startRun ops).port = s.port := rfl
@[simp] theorem State.startRun_inputs : (s.startRun ops).inputs = ops := rfl
@[simp] theorem State.startRun_outputs : (s.startRun ops).outputs = [] := rfl
@[simp] theorem State.startRun_results : (s.startRun ops).results = [] := rfl
@[simp] theorem State.startRun_accByte (x : Nat) : (s.startRun ops).accByte x = s.accByte x := rfl

end Sys2Proof.Machine
end

