-- ==== Sys2Proof/Tests/Slice0.lean ====
section
/-! SUPPORT. The model's own tests, each result taken from spec/95_test_vectors.md or from the rule its name
points to; and a witness for every statement that has hypotheses. -/

namespace Sys2Proof.Tests

open Sys2Proof.Machine Sys2Proof.Claims

/-! ## Well-formedness refuses what it should -/

theorem test_wf_bind_out_of_range : Instr.wf { numCores := 8 } (.bind 9) = false := by decide
theorem test_wf_other_is_no_delimiter : Instr.wf {} (.lbOther 0xC0) = false := by decide
theorem test_wf_other_is_no_escape : Instr.wf {} (.lbOther 0xDB) = false := by decide
theorem test_wf_other_is_no_esc_end : Instr.wf {} (.lbOther 0xDC) = false := by decide
theorem test_wf_other_is_no_esc_esc : Instr.wf {} (.lbOther 0xDD) = false := by decide
theorem test_wf_other_is_no_zero : Instr.wf {} (.lbOther 0x00) = false := by decide
theorem test_wf_default_config : Config.default.wf := by decide
theorem test_wf_no_core : ¬ Config.wf { numCores := 0 } := by decide
theorem test_wf_too_many_cores : ¬ Config.wf { numCores := 17 } := by decide
theorem test_wf_auto_meets_inc : ¬ CmdLayout.wf { autoBit := 0 } := by decide
theorem test_wf_auto_in_op : ¬ CmdLayout.wf { autoBit := 1 } := by decide
theorem test_wf_auto_in_op_high : ¬ CmdLayout.wf { autoBit := 2 } := by decide
theorem test_wf_inc_in_op : ¬ CmdLayout.wf { incBit := 1 } := by decide
theorem test_wf_inc_in_op_high : ¬ CmdLayout.wf { incBit := 2 } := by decide
theorem test_wf_op_numbers_differ : ¬ CmdLayout.wf { opWrite := 1 } := by decide

/-! ## Words written out from the encodings of 30_encoding.md, one for every constructor -/

theorem test_decode_crc_step : decodeCmd16 0b0001000001010110 = .ok (.crcStep 0x56) := by rfl
theorem test_decode_crc_block : decodeCmd16 0b0010000000000000 = .ok .crcBlock := by rfl
theorem test_decode_encode : decodeCmd16 0b0011000000000000 = .ok .encode := by rfl
theorem test_decode_send : decodeCmd16 0b0100000000001100 = .ok (.send 12) := by rfl
theorem test_decode_rx_byte : decodeCmd16 0b0101000011011011 = .ok (.rxByte 0xDB) := by rfl
theorem test_decode_rx_status_wouldblock : decodeCmd16 0b0110000000000000 = .ok (.rxStatus .wouldBlock) := by rfl
theorem test_decode_rx_status_error : decodeCmd16 0b0110001000000000 = .ok (.rxStatus .error) := by rfl
theorem test_decode_parse : decodeCmd16 0b0111000000000011 = .ok (.parse 3) := by rfl
theorem test_decode_bind : decodeCmd16 0b1000000000001111 = .ok (.bind 15) := by rfl
theorem test_decode_reset : decodeCmd16 0b1111000000000000 = .ok .reset := by rfl
theorem test_decode_cmd_nop : decodePktCmd8 {} 0b11110000 = .cmdNop 0xF false false := by decide
theorem test_decode_cmd_read : decodePktCmd8 {} 0b00001010 = .cmdRead 0 true false := by decide
theorem test_decode_cmd_write : decodePktCmd8 {} 0b00000101 = .cmdWrite 0 false true := by decide
theorem test_decode_cmd_wrrd : decodePktCmd8 {} 0b00000110 = .cmdWrrd 0 false false := by decide
theorem test_decode_lb_end : decodeLinkByte8 0b11000000 = .lbEnd := by decide
theorem test_decode_lb_esc : decodeLinkByte8 0b11011011 = .lbEsc := by decide
theorem test_decode_lb_esc_end : decodeLinkByte8 0b11011100 = .lbEscEnd := by decide
theorem test_decode_lb_esc_esc : decodeLinkByte8 0b11011101 = .lbEscEsc := by decide
theorem test_decode_lb_zero : decodeLinkByte8 0b00000000 = .lbZero := by decide
theorem test_decode_lb_other : decodeLinkByte8 0b01000001 = .lbOther 0x41 := by decide
/-- V-REF-1 -/
theorem test_refused_op_zero : decodeCmd16 0x0000 = .error (.reservedOp 0) := by rfl
/-- V-REF-2 -/
theorem test_refused_op_e : decodeCmd16 0xE000 = .error (.reservedOp 0xE) := by rfl
/-- V-REF-3 -/
theorem test_refused_status : decodeCmd16 0x6300 = .error .reservedStatus := by rfl
/-- V-REF-4 -/
theorem test_refused_status_field : decodeCmd16 0x6400 = .error .nonZeroField := by rfl
/-- V-REF-5 -/
theorem test_refused_bind_field : decodeCmd16 0x8013 = .error .nonZeroField := by rfl

/-! ## Small states -/

/-- The state an operation goes to, if it goes to one. -/
def nextOf : Answer → Option State
  | .next s => some s
  | .fault _ => none
  | .refused _ => none

/-- The reset state with these bytes on D. -/
def onData (bytes : List Byte) : State := { State.reset with port := { data := bytes } }

/-- A decoder in this state with these bytes in ACC and core 3 bound. -/
def decoding (d : DecState) (bytes : List Byte) : State :=
  { State.reset with
    decState := d
    acc := (List.range bytes.length).zip bytes
    accLen := bytes.length
    coreBound := 0x0008 }

/-- The write packet of S3. -/
def packet : List Byte := [0x05, 0x03, 0x00, 0x02, 0x12, 0x34]
/-- Its logical frame (S3). -/
def frame : List Byte := [0x05, 0x03, 0x00, 0x02, 0x12, 0x34, 0xD0, 0x75]
/-- The read response of V-PAR-1. -/
def readFrame : List Byte := [0x02, 0x05, 0x10, 0x02, 0xAA, 0xBB, 0x01, 0x62, 0x5B]
/-- A SEND of the packet of S3 with this answer of the link. -/
def sending (wr : WriteAnswer) : State :=
  { State.reset with port := { data := packet, linkOpen := true, write := wr } }

/-! ## One step each -/

/-- V-CRC-18 -/
theorem test_crc_step : (nextOf (exec (.crcStep 0x56)
    { State.reset with port := { a := 0x1234 } })).map State.resultPort = some (some (.crc 0x3C40)) := by
  decide
/-- V-CRC-7 -/
theorem test_crc_block : (nextOf (exec .crcBlock
    (onData [0x31, 0x32, 0x33, 0x34, 0x35, 0x36, 0x37, 0x38, 0x39]))).map State.resultPort =
    some (some (.crc 0x31C3)) := by decide
/-- V-ENC-2 -/
theorem test_encode_escapes : (nextOf (exec .encode (onData [0xC0, 0xDB]))).map State.resultPort =
    some (some (.encoded 8 [0xC0, 0xDB, 0xDC, 0xDB, 0xDD, 0x6C, 0x42, 0xC0] [0xC0, 0xDB, 0x6C, 0x42])) := by
  decide
/-- V-ENC-11's case at MAX_PAYLOAD = 0, where ENC_MAX_N = 4 -/
theorem test_encode_too_long : (nextOf (exec .encode { onData [1, 2, 3, 4, 5] with
    cfg := { maxPayload := 0 } })).map State.resultPort = some (some (.encoded 0 [] [1, 2, 3, 4, 5])) := by
  decide
/-- V-TX-1 -/
theorem test_send_complete : (nextOf (exec (.send 3) (sending (.wrote 10)))).map
    (fun t => (t.txWire, t.events, t.resultPort)) =
    some ([0xC0, 0xF5, 0xE3, 0x00, 0x02, 0x12, 0x34, 0x7A, 0xC5, 0xC0], [],
      some (.sent 0 [0xF5, 0xE3, 0x00, 0x02, 0x12, 0x34, 0x7A, 0xC5])) := by decide
/-- V-TX-2 -/
theorem test_send_short : (nextOf (exec (.send 3) (sending (.wrote 4)))).map
    (fun t => (t.txWire, t.events, t.resultPort)) =
    some ([0xC0, 0xF5, 0xE3, 0x00], [.txShort 4],
      some (.sent (-1) [0xF5, 0xE3, 0x00, 0x02, 0x12, 0x34, 0x7A, 0xC5])) := by decide
/-- V-DEC-4's first byte: ESC in SKIP begins an escape -/
theorem test_rx_byte_esc_in_skip : (nextOf (exec (.rxByte 0xDB) State.reset)).map State.decState =
    some .inEsc := by decide
/-- V-DEC-1's last byte -/
theorem test_rx_byte_end : (nextOf (exec (.rxByte 0xC0) (decoding .inPkt frame))).map
    (fun t => (t.outputs, t.accLen)) = some ([.event (.rxFrame frame), .dispatch 3 packet 6], 0) := by decide
/-- V-DEC-16 -/
theorem test_rx_status_eof : (nextOf (exec (.rxStatus .eof) (decoding .inEsc [1]))).map
    (fun t => (t.events, t.halted, t.decState, t.accLen)) = some ([.linkEof], true, .inEsc, 1) := by decide
/-- V-DEC-15 -/
theorem test_rx_status_wouldblock : (nextOf (exec (.rxStatus .wouldBlock) (decoding .inEsc [4, 5, 0, 1]))).map
    (fun t => (t.outputs, t.halted, t.decState, t.accLen)) = some ([], false, .inEsc, 4) := by decide
/-- V-PAR-1 -/
theorem test_parse_read : (nextOf (exec (.parse 3)
    { onData readFrame with coreBound := 0x0020 })).map (fun t => (t.dispatches, t.resultPort)) =
    some ([(5, [0x02, 0x05, 0x10, 0x02, 0xAA, 0xBB, 0x01], 7)], some (.verdict .acceptDispatched)) := by decide
/-- V-PAR-2 -/
theorem test_parse_read_count : (nextOf (exec (.parse 2)
    { onData readFrame with coreBound := 0x0020 })).map (fun t => (t.outputs, t.resultPort)) =
    some ([.event (.rejReadCount 2 readFrame)], some (.verdict (.reject .readCount))) := by decide
/-- V-BIND-3 -/
theorem test_bind : (nextOf (exec (.bind 15) State.reset)).map State.coreBound = some 0x8000 := by decide
/-- V-RST-1 -/
theorem test_reset : (nextOf (exec .reset
    { decoding .inEsc [1, 2, 3] with halted := true })).map
    (fun t => (t.decState, t.accLen, t.coreBound, t.halted, t.outputs)) =
    some (.skip, 0, 0, false, []) := by decide
/-- V-PAR-12 -/
theorem test_cmd_nop : (nextOf (exec (.cmdNop 0 false false) (onData [0x03, 0x00, 0x00, 0x59, 0x50]))).map
    State.events = some [.rejOpcode 0 [0x00, 0x03, 0x00, 0x00, 0x59, 0x50]] := by decide
/-- V-PAR-5 with the requested count drawn -/
theorem test_cmd_read : (nextOf (exec (.cmdRead 0 true false)
    { State.reset with
      coreBound := 0x0020
      port := { data := [0x05, 0x10, 0x01, 0x7F, 0x00, 0x91, 0xA5], req := 1 } })).map State.dispatches =
    some [(5, [0x0A, 0x05, 0x10, 0x01, 0x7F, 0x00], 6)] := by decide
/-- V-PAR-15 -/
theorem test_cmd_write : (nextOf (exec (.cmdWrite 0 false false) (onData [0x07, 0x00, 0x00, 0x4F, 0x61]))).map
    State.events = some [.routeMiss 7] := by decide
/-- V-PAR-22 -/
theorem test_cmd_wrrd_accepted : (nextOf (exec (.cmdWrrd 0 false false)
    { onData [0x03, 0x00, 0x00, 0x7E, 0xC9] with
      cfg := { acceptWrrd := true }
      coreBound := 0x0008 })).map State.dispatches = some [(3, [0x06, 0x03, 0x00, 0x00], 4)] := by decide
/-- V-PAR-13 -/
theorem test_cmd_wrrd_rejected : (nextOf (exec (.cmdWrrd 0 false false)
    (onData [0x03, 0x00, 0x00, 0x7E, 0xC9]))).map State.resultPort =
    some (some (.verdict (.reject .opcode))) := by decide
/-- V-DEC-11b's last byte -/
theorem test_lb_end_in_escape : (nextOf (exec .lbEnd (decoding .inEsc [1]))).map
    (fun t => (t.events, t.decState, t.accLen)) = some ([.framingEndEsc], .inPkt, 0) := by decide
/-- V-DEC-11a's last byte -/
theorem test_lb_esc_in_escape : (nextOf (exec .lbEsc (decoding .inEsc []))).map
    (fun t => (t.events, t.decState)) = some ([.framingEscEsc], .inPkt) := by decide
/-- V-DEC-10's third byte -/
theorem test_lb_esc_end : (nextOf (exec .lbEscEnd (decoding .inEsc [1]))).map
    (fun t => (t.acc, t.accLen, t.decState)) = some ([(0, 0x01), (1, 0xC0)], 2, .inPkt) := by decide
/-- V-DEC-10's last byte -/
theorem test_lb_esc_esc : (nextOf (exec .lbEscEsc (decoding .inEsc [0x01, 0xC0]))).map
    (fun t => (t.acc, t.accLen)) = some ([(0, 0x01), (1, 0xC0), (2, 0xDB)], 3) := by decide
/-- V-DEC-2 -/
theorem test_lb_zero_in_skip : (nextOf (exec .lbZero State.reset)).map
    (fun t => (t.decState, t.accLen)) = some (.skip, 0) := by decide
/-- V-DEC-8 -/
theorem test_lb_zero_in_packet : (nextOf (exec .lbZero (decoding .inPkt []))).map
    (fun t => (t.acc, t.accLen)) = some ([(0, 0x00)], 1) := by decide
/-- V-DEC-11c's last byte -/
theorem test_lb_other_in_escape : (nextOf (exec (.lbOther 0x41) (decoding .inEsc [1]))).map
    (fun t => (t.events, t.decState, t.accLen)) = some ([.framingBadEscape 0x41], .inPkt, 0) := by decide
/-- V-DEC-13a's case at MAX_PAYLOAD = 0, where RX_CAP = 6 -/
theorem test_lb_other_overflow : (nextOf (exec (.lbOther 0x01)
    { decoding .inPkt [1, 1, 1, 1, 1, 1] with cfg := { maxPayload := 0 } })).map
    (fun t => (t.events, t.decState, t.accLen)) = some ([.framingOverflow 6], .inPkt, 0) := by decide
/-- A table word placed after reset is the operation the next step runs. -/
theorem test_fetch_word : (nextOf (step (State.reset.withFetchWord 16 0x8003))).map State.coreBound =
    some 0x0008 := by decide
/-- The lines of R67: `RX_BYTE 0xC0`, `BIND 3`, `RX_STATUS EOF`, `RESET`. -/
theorem test_line_words : ([Line.rxByte 0xC0, .bind 3, .rxStatus .eof, .reset].flatMap
    (fun l => (l.ops {} fun _ => {}).map HostOp.word)) =
    [.cmd16 0x50C0, .cmd16 0x8003, .cmd16 0x6100, .cmd16 0xF000] := by decide
/-- 00_scope.md R13, 42_decoder.md R144: the steps of one line draw separately. -/
theorem test_line_draws : (((Line.rxRead [0x41, 0xC0] .eof).ops {} (fun k => { req := BitVec.ofNat 8 k })).map
    (fun op => (op.word, op.operands.req))) =
    [(.cmd16 0x5041, 0), (.cmd16 0x50C0, 1), (.cmd16 0x6100, 2)] := by decide
/-- V-RST-1's contents of ACC: RESET leaves no byte that was written before it. -/
theorem test_reset_acc : (nextOf (exec .reset (decoding .inPkt [1, 2, 3]))).map
    (fun t => (t.acc, t.accEpoch)) = some ([], 1) := by decide
/-- 20_memory.md R40: a byte of ACC has a value although nothing wrote it. -/
theorem test_acc_byte_unwritten : State.reset.memRead 515 =
    .ok (Config.unspecifiedAccByte 0 515) := rfl

/-- 70_reset_and_hazards.md R230 (2): a run that stops at a halted block is observed up to there. -/
theorem test_observe_halted :
    let o := observe State.reset ((Line.rxStatus .eof).ops {} (fun _ => {}) ++ (Line.bind 3).ops {} fun _ => {})
    (o.ending, o.events, o.results, o.final.halted, o.final.coreBound) =
      (.noStep .halted, [.linkEof], [none], true, 0) := by decide
/-- R230 (3): a run that stops at a refused word keeps what came before it. -/
theorem test_observe_refused :
    let o := observe State.reset ((Line.bind 3).ops {} (fun _ => {}) ++ [{ word := .cmd16 0x9000, operands := {} }])
    (o.ending, o.results, o.final.coreBound) =
      (.refused (.undecodable (.reservedOp 9)), [none], 0x0008) := by decide

/-! ## A witness for every statement that has hypotheses -/

/-- The running block right after reset. -/
theorem test_witness_running : State.reset.halted = false := rfl

/-- StepRunsTheDecodedOperation, both clauses -/
theorem test_witness_step : ∃ (s : State) (op : HostOp) (rest : List HostOp) (i : Instr),
    s.inputs = op :: rest ∧ decode s.cfg.layout op.word = .ok i :=
  ⟨State.reset.withFetchWord 16 0x8003, _, _, .bind 3, rfl, rfl⟩
theorem test_witness_idle : State.reset.inputs = [] := rfl

/-- RefusedWordsAreExactlyTheListedOnes: a listed word and one that is not -/
theorem test_witness_refused : RefusedWord {} 0x6300 0 ∧ RefusedWord { numCores := 8 } 0x8009 0 ∧
    RefusedWord {} 0x7000 517 ∧ ¬ RefusedWord {} 0x7000 516 ∧ ¬ RefusedWord {} 0x800F 0 ∧
    ¬ RefusedWord {} 0x6200 0 ∧ ¬ RefusedWord { numCores := 8 } 0x400C 0 := by
  simp [RefusedWord]
theorem test_witness_refused_queue : ∃ (s : State) (operands : Operands) (rest : List HostOp),
    s.inputs = { word := .cmd16 0x9000, operands := operands } :: rest :=
  ⟨State.reset.withFetchWord 16 0x9000, _, _, rfl⟩

/-- DecodeEncodeRoundTrip, at BIND's last core and at another layout -/
theorem test_witness_decode_encode : Config.wf {} ∧ Instr.wf {} (.bind 15) = true := by decide
theorem test_witness_decode_encode_layout :
    Config.wf { layout := { autoBit := 0, opLo := 2, incBit := 1, opNop := 3, opWrrd := 0 } } ∧
    Instr.wf {} (.cmdWrrd 0xF true false) = true := by decide

/-- EncodeDecodeRoundTrip -/
theorem test_witness_encode_decode : Config.wf {} ∧
    decode ({} : Config).layout (.pktCmd8 0xFF) = .ok (.cmdWrrd 0xF true true) :=
  ⟨by decide, rfl⟩

/-- CrcIsLinear -/
theorem test_witness_linear : ([0x01, 0x02] : List Byte).length = ([0x10, 0x20] : List Byte).length := rfl

/-- EncodeReturnsTheWireFrame and EncodedLengthLaw, at ENC_MAX_N (MAX_PAYLOAD = 0) -/
theorem test_witness_encode : (onData [1, 2, 3, 4]).halted = false ∧ (onData [1, 2, 3, 4]).port.data.length ≤ 0 + 4 := by
  decide
/-- EncodeOfTooLongPacketFails, one byte more -/
theorem test_witness_encode_too_long : ∃ s : State, s.halted = false ∧
    s.cfg.maxPayload + 4 < s.port.data.length :=
  ⟨{ onData [1, 2, 3, 4, 5] with cfg := { maxPayload := 0 } }, by decide⟩

/-- The normalised packet of V-TX-1. -/
theorem test_witness_normalised : Normalised packet 3 [0xF5, 0xE3, 0x00, 0x02, 0x12, 0x34] := by
  refine ⟨by decide, by decide, by decide, ?_⟩
  intro i hi
  obtain ⟨j, rfl⟩ : ∃ j, i = j + 2 := ⟨i - 2, by omega⟩
  rfl

/-- SendChecksInOrder: each of the three checks -/
theorem test_witness_send_too_short : (onData [1, 2, 3]).halted = false ∧ (onData [1, 2, 3]).port.data.length < 4 := by
  decide
theorem test_witness_send_closed : ∃ (s : State) (P : List Byte), s.halted = false ∧
    4 ≤ s.port.data.length ∧ Normalised s.port.data 3 P ∧ s.port.linkOpen = false :=
  ⟨onData packet, _, by decide, by decide, test_witness_normalised, by decide⟩
theorem test_witness_send_too_long : ∃ (s : State) (P : List Byte), s.halted = false ∧
    4 ≤ s.port.data.length ∧ Normalised s.port.data 3 P ∧ s.port.linkOpen = true ∧
    s.cfg.maxPayload + 4 < s.port.data.length :=
  ⟨{ sending .error with cfg := { maxPayload := 1 } }, _, by decide, by decide, test_witness_normalised,
    by decide, by decide⟩

/-- SendWritesTheNormalisedFrame: each answer of the link -/
theorem test_witness_send_answers : ∀ wr ∈ [WriteAnswer.wrote 10, .wrote 9, .wrote 0, .wouldBlock, .error],
    (sending wr).halted = false ∧ (sending wr).port.linkOpen = true ∧
    4 ≤ (sending wr).port.data.length ∧
    (sending wr).port.data.length ≤ (sending wr).cfg.maxPayload + 4 ∧ (sending wr).port.write = wr ∧
    (wireOf (frameOf [0xF5, 0xE3, 0x00, 0x02, 0x12, 0x34])).length = 10 := by decide

/-- OnlySendWritesTheWire -/
theorem test_witness_wire : ∃ (s t : State) (o : List Output), exec (.send 3) s = .next t ∧
    t.outputs = s.outputs ++ o ∧ ∃ b, .tx b ∈ o :=
  ⟨sending (.wrote 1), _, [.tx 0xC0, .event (.txShort 1)], rfl, by decide, 0xC0, by decide⟩

/-- The two instructions that feed a byte. -/
theorem test_witness_feeds : Feeds .lbEnd 0xC0 ∧ Feeds (.rxByte 0xC0) 0xC0 ∧ Feeds .lbZero 0x00 ∧
    Feeds .lbEsc 0xDB ∧ Feeds .lbEscEnd 0xDC ∧ Feeds .lbEscEsc 0xDD ∧ Feeds (.lbOther 0x41) 0x41 :=
  ⟨.inr rfl, .inl rfl, .inr rfl, .inr rfl, .inr rfl, .inr rfl, .inr rfl⟩

/-- The decoder's transitions (SkipDiscardsZeroFill to InEscViolationsResynchronise): a running decoder in each
state, empty and not. -/
theorem test_witness_decoder : ∀ d ∈ [DecState.inPkt, .inEsc], ∀ bytes ∈ [[], [0x01], frame],
    (decoding d bytes).halted = false ∧ (decoding d bytes).decState = d ∧
    (decoding d bytes).accLen = bytes.length ∧
    (decoding d bytes).accLen < (decoding d bytes).cfg.maxPayload + 6 := by decide
theorem test_witness_skip : State.reset.halted = false ∧ State.reset.decState = .skip ∧
    (0x41 : Byte) ≠ 0x00 := by decide
/-- InPktEndEmitsTheFrame, its second clause -/
theorem test_witness_acc_holds : 0 < (decoding .inPkt frame).accLen ∧ AccHolds (decoding .inPkt frame) frame := by
  refine ⟨by decide, by decide, by decide, ?_⟩
  decide
/-- FullAccumulatorOverflows, both states -/
theorem test_witness_full : ∃ (s u : State), (s.halted = false ∧ s.accLen = s.cfg.maxPayload + 6 ∧
    s.decState = .inPkt ∧ (0x41 : Byte) ≠ 0xC0 ∧ (0x41 : Byte) ≠ 0xDB) ∧
    (u.halted = false ∧ u.accLen = u.cfg.maxPayload + 6 ∧ u.decState = .inEsc) :=
  ⟨{ decoding .inPkt [1, 1, 1, 1, 1, 1] with cfg := { maxPayload := 0 } },
   { decoding .inEsc [1, 1, 1, 1, 1, 1] with cfg := { maxPayload := 0 } }, by decide, by decide⟩

/-- SkipIsEnteredOnlyByReset -/
theorem test_witness_stays_in_skip : ∃ s t : State, Instr.rxByte 0 ≠ .reset ∧
    exec (.rxByte 0) s = .next t ∧ t.decState = .skip :=
  ⟨State.reset, _, by decide, rfl, rfl⟩

/-- OneViolationOrOneFramePerByte: a byte that puts out nothing, one that violates, one that completes -/
theorem test_witness_byte_outputs :
    (∃ t, exec .lbEsc State.reset = .next t ∧ t.outputs = State.reset.outputs) ∧
    (∃ t, exec .lbEsc (decoding .inEsc []) = .next t ∧ t.outputs = [.event .framingEscEsc]) ∧
    (∃ t, exec .lbEnd (decoding .inPkt frame) = .next t ∧
      t.outputs = [.event (.rxFrame frame), .dispatch 3 packet 6]) :=
  ⟨⟨_, rfl, by decide⟩, ⟨_, rfl, by decide⟩, ⟨_, rfl, by decide⟩⟩

/-- ZeroRunsAreRejected, either side of six bytes -/
theorem test_witness_zero_runs : ∀ n ∈ [0, 5, 6, 12],
    (onData (List.replicate n 0x00)).halted = false ∧ (onData (List.replicate n 0x00)).cfg.wf ∧
    (onData (List.replicate n 0x00)).cfg.layout.opNop = 0 ∧
    n ≤ (onData (List.replicate n 0x00)).cfg.maxPayload + 6 := by decide

/-- ReadBoundaryHasNoEffect: an escape pair cut by the boundary, and a full accumulator (MAX_PAYLOAD = 0) -/
theorem test_witness_boundary : (decoding .inEsc [0x01]).halted = false ∧
    (decoding .inEsc [0x01]).accLen ≤ (decoding .inEsc [0x01]).cfg.maxPayload + 6 ∧
    (decoding .inPkt [1, 1, 1, 1, 1, 1]).halted = false ∧
    (decoding .inPkt [1, 1, 1, 1, 1, 1]).accLen ≤ 0 + 6 := by decide
/-- ChunkLineRunsAsItsBytes: two bytes with different draws, with an operation waiting after them -/
theorem test_witness_chunk_line : ∃ s : State, s.inputs =
    Line.ops s.cfg.layout (fun k => { s.port with req := ([0x03, 0x05] : List Byte).getD k 0 })
      (.rxChunk [0x41, 0xC0]) ++ [{ word := .cmd16 0xF000, operands := {} }] :=
  ⟨{ State.reset with inputs := [{ word := .cmd16 0x5041, operands := { req := 0x03 } },
      { word := .cmd16 0x50C0, operands := { req := 0x05 } }, { word := .cmd16 0xF000, operands := {} }] },
    by decide⟩

/-- EncodedPacketsDecodeToTheirFrames, from each state of the decoder, a packet at ENC_MAX_N (MAX_PAYLOAD = 0)
among them, with a draw for each byte -/
theorem test_witness_round_trip : ∀ d ∈ [DecState.skip, .inPkt, .inEsc],
    ([[], [0x02, 0x01, 0x00, 0xDD]] : List (List Byte)) ≠ [] ∧
    (decoding d []).halted = false ∧ (decoding d []).accLen = 0 ∧
    ∀ P ∈ ([[], [0x02, 0x01, 0x00, 0xDD]] : List (List Byte)), P.length ≤ 0 + 4 := by decide

theorem test_witness_received (req : Byte) : ∀ bytes : List Byte,
    (bytes.map fun b => Received.mk b req).map Received.byte = bytes := by simp [Function.comp_def]

/-- OneCorruptedByteCostsOneFrame: V-DEC-12; its bytes as received by test_witness_received -/
theorem test_witness_corruption : (decoding .inPkt []).halted = false ∧ (decoding .inPkt []).decState = .inPkt ∧
    (decoding .inPkt []).accLen = 0 ∧ 4 ≤ packet.length ∧
    packet.length ≤ (decoding .inPkt []).cfg.maxPayload + 4 ∧
    5 < (wireOf (frameOf packet)).length - 1 ∧ byteAt (wireOf (frameOf packet)) 5 ≠ 0xDB ∧
    byteAt (wireOf (frameOf packet)) 4 ≠ 0xDB ∧ (0x13 : Byte) ≠ byteAt (wireOf (frameOf packet)) 5 ∧
    (0x13 : Byte) ≠ 0xC0 ∧ (0x13 : Byte) ≠ 0xDB := by decide

/-- ParseRejectsShortFrames and ParseRejectsBadCrc: V-PAR-17, V-PAR-18 -/
theorem test_witness_short : (onData [0x04, 0x03, 0, 0, 0]).halted = false ∧
    (onData [0x04, 0x03, 0, 0, 0]).port.data.length < 6 := by decide
theorem test_witness_bad_crc : ∃ s : State, s.halted = false ∧ 6 ≤ s.port.data.length ∧
    s.port.data.length ≤ s.cfg.maxPayload + 6 ∧ crc16 s.port.data ≠ 0 :=
  ⟨onData [0x05, 0x03, 0x00, 0x02, 0x12, 0x34, 0xD0, 0x76], by decide⟩

/-- The intact frames of V-PAR-1, V-PAR-9 and V-PAR-12. -/
theorem test_witness_intact_read : Intact (onData readFrame) (onData readFrame).port.data :=
  ⟨by decide, by decide, by decide, by decide⟩
theorem test_witness_intact_write : Intact (onData frame) (onData frame).port.data :=
  ⟨by decide, by decide, by decide, by decide⟩
theorem test_witness_intact_nop : Intact (onData [0x00, 0x03, 0x00, 0x00, 0x59, 0x50])
    (onData [0x00, 0x03, 0x00, 0x00, 0x59, 0x50]).port.data :=
  ⟨by decide, by decide, by decide, by decide⟩

/-- ParseRejectsUnacceptedOperations: V-PAR-12 -/
theorem test_witness_unaccepted : ¬ OpAccepted (onData [0x00, 0x03, 0x00, 0x00, 0x59, 0x50])
    (onData [0x00, 0x03, 0x00, 0x00, 0x59, 0x50]).port.data := by
  unfold OpAccepted; decide
/-- ParseRejectsInvalidCores: V-PAR-21 -/
theorem test_witness_invalid_core : ∃ s : State, Intact s s.port.data ∧ OpAccepted s s.port.data ∧
    s.cfg.numCores ≤ coreNumber s.port.data :=
  ⟨{ onData [0x04, 0x09, 0x00, 0x00, 0x54, 0x60] with cfg := { numCores := 8 } },
    ⟨by decide, by decide, by decide, by decide⟩, .inr (.inl (by decide)), by decide⟩
/-- ParseRejectsInconsistentReads, ReadRowIsCheckedThenRouted: V-PAR-2; ParseRoutesAcceptedFrames: V-PAR-1 -/
theorem test_witness_read : opNumber (onData readFrame) readFrame = (onData readFrame).cfg.layout.opRead.toNat ∧
    coreNumber readFrame < (onData readFrame).cfg.numCores ∧ ¬ ReadConsistent readFrame 2 ∧
    ReadConsistent readFrame 3 := by
  unfold ReadConsistent; decide
/-- ParseRoutesAcceptedFrames and WriteResponsesAreNotReadChecked: V-PAR-9 -/
theorem test_witness_write : (onData frame).cfg.wf ∧ OpAccepted (onData frame) (onData frame).port.data ∧
    opNumber (onData frame) frame = (onData frame).cfg.layout.opWrite.toNat ∧
    coreNumber frame < (onData frame).cfg.numCores :=
  ⟨by decide, .inr (.inl (by decide)), by decide, by decide⟩
/-- VerdictIgnoresUncheckedFields: V-PAR-9 and V-PAR-10, whose nibbles and trailers differ -/
theorem test_witness_unchecked :
    let G : List Byte := [0xF5, 0xE3, 0x00, 0x02, 0x12, 0x34, 0x7A, 0xC5]
    Intact (onData frame) G ∧ G.length = frame.length ∧
    opNumber (onData frame) G = opNumber (onData frame) frame ∧ coreNumber G = coreNumber frame ∧
    opNumber (onData frame) G ≠ (onData frame).cfg.layout.opRead.toNat ∧
    ∃ t, exec (.parse 0) (onData frame) = .next t :=
  ⟨⟨by decide, by decide, by decide, by decide⟩, by decide, by decide, by decide, by decide, _, rfl⟩
/-- DispatchedPacketCarriedItsCrc, DispatchGoesOnlyToBoundCores: V-PAR-9 -/
theorem test_witness_dispatch : ∃ s t : State, exec (.parse 0) s = .next t ∧
    t.outputs = s.outputs ++ [.dispatch 3 packet 6] :=
  ⟨{ onData frame with coreBound := 0x0008 }, _, rfl, by decide⟩

/-- CommandByteRowsActAsParse: a frame PARSE answers, one it refuses, and a halted block -/
theorem test_witness_rows_act_as_parse : (onData frame).cfg.wf ∧
    (∃ t, exec (.parse 0) (onData frame) = .next t) ∧
    (∃ r, exec (.parse 0) { onData [0, 0, 0, 0, 0, 0, 0] with cfg := { maxPayload := 0 } } = .refused r) ∧
    exec (.parse 0) { onData frame with halted := true } = .fault .halted :=
  ⟨by decide, ⟨_, rfl⟩, ⟨.frameTooLong 7, rfl⟩, rfl⟩
/-- CommandByteRowsRejectDamagedFrames: a short frame and a damaged one -/
theorem test_witness_damaged : FrameOfRow (.cmdNop 0 false false) (onData [0x03]) [0x00, 0x03] ∧
    FrameOfRow (.cmdWrite 0 false true) (onData [0x03, 0x00, 0x02, 0x12, 0x34, 0xD0, 0x76])
      [0x05, 0x03, 0x00, 0x02, 0x12, 0x34, 0xD0, 0x76] ∧
    crc16 [0x05, 0x03, 0x00, 0x02, 0x12, 0x34, 0xD0, 0x76] ≠ 0 :=
  ⟨⟨_, rfl, by decide⟩, ⟨_, rfl, by decide⟩, by decide⟩
/-- NopAndUnacceptedWrrdAreRejected: V-PAR-12 and V-PAR-13 -/
theorem test_witness_nop_row : Intact (onData [0x03, 0x00, 0x00, 0x59, 0x50]) [0x00, 0x03, 0x00, 0x00, 0x59, 0x50] ∧
    FrameOfRow (.cmdNop 0 false false) (onData [0x03, 0x00, 0x00, 0x59, 0x50])
      [0x00, 0x03, 0x00, 0x00, 0x59, 0x50] :=
  ⟨⟨by decide, by decide, by decide, by decide⟩, _, rfl, by decide⟩
theorem test_witness_wrrd_row : Intact (onData [0x03, 0x00, 0x00, 0x7E, 0xC9]) [0x06, 0x03, 0x00, 0x00, 0x7E, 0xC9] ∧
    FrameOfRow (.cmdWrrd 0 false false) (onData [0x03, 0x00, 0x00, 0x7E, 0xC9])
      [0x06, 0x03, 0x00, 0x00, 0x7E, 0xC9] ∧
    (onData [0x03, 0x00, 0x00, 0x7E, 0xC9]).cfg.acceptWrrd = false :=
  ⟨⟨by decide, by decide, by decide, by decide⟩, ⟨_, rfl, by decide⟩, by decide⟩
/-- ReadRowIsCheckedThenRouted: the three clauses -/
theorem test_witness_read_row : ∀ req ∈ [(2 : Byte), 3], ∀ n ∈ [4, 16],
    let s : State := { State.reset with
      cfg := { numCores := n }
      port := { data := [0x05, 0x10, 0x02, 0xAA, 0xBB, 0x01, 0x62, 0x5B], req := req } }
    Intact s readFrame ∧ FrameOfRow (.cmdRead 0 false false) s readFrame ∧
    (n = 4 → s.cfg.numCores ≤ coreNumber readFrame) ∧
    (n = 16 → coreNumber readFrame < s.cfg.numCores) ∧ s.port.req = req := by
  intro req hreq n hn
  simp only [List.mem_cons, List.not_mem_nil, or_false] at hreq hn
  rcases hreq with rfl | rfl <;> rcases hn with rfl | rfl <;>
    exact ⟨⟨by decide, by decide, by decide, by decide⟩, ⟨_, rfl, by decide⟩, by decide, by decide, rfl⟩
/-- WriteAndWrrdRowsAreRouted: a WRITE and an accepted WRRD, for a valid core and an invalid one -/
theorem test_witness_write_row : ∀ n ∈ [2, 16],
    let s : State := { onData [0x03, 0x00, 0x00, 0x93, 0xA1] with cfg := { numCores := n } }
    let u : State := { onData [0x03, 0x00, 0x00, 0x7E, 0xC9] with
      cfg := { numCores := n, acceptWrrd := true } }
    (Intact s [0x04, 0x03, 0x00, 0x00, 0x93, 0xA1] ∧
      FrameOfRow (.cmdWrite 0 false false) s [0x04, 0x03, 0x00, 0x00, 0x93, 0xA1]) ∧
    (Intact u [0x06, 0x03, 0x00, 0x00, 0x7E, 0xC9] ∧ u.cfg.acceptWrrd = true ∧
      FrameOfRow (.cmdWrrd 0 false false) u [0x06, 0x03, 0x00, 0x00, 0x7E, 0xC9]) ∧
    coreNumber [0x04, 0x03, 0x00, 0x00, 0x93, 0xA1] = 3 := by
  intro n hn
  simp only [List.mem_cons, List.not_mem_nil, or_false] at hn
  rcases hn with rfl | rfl <;>
    exact ⟨⟨⟨by decide, by decide, by decide, by decide⟩, ⟨_, rfl, by decide⟩⟩,
      ⟨⟨by decide, by decide, by decide, by decide⟩, by decide, ⟨_, rfl, by decide⟩⟩, by decide⟩
/-- OneOutcomePerJudgedFrame -/
theorem test_witness_one_outcome : ∃ t, exec (decodePktCmd8 (onData []).cfg.layout 0x04) (onData []) = .next t :=
  ⟨_, rfl⟩

/-- BindSetsOneBit, at the last core -/
theorem test_witness_bind : State.reset.halted = false ∧ (15 : Nibble).toNat < State.reset.cfg.numCores := by decide
theorem test_witness_bind_again : ({ State.reset with coreBound := 0x8000 } : State).coreBound.getLsbD
    (15 : Nibble).toNat = true := by decide

/-- HaltedBlockStepsOnlyByReset -/
theorem test_witness_halted : ({ State.reset with halted := true } : State).halted = true ∧
    Instr.crcBlock ≠ .reset := by decide

/-- EveryStepKeepsTheInvariant, InvariantStatesNeverFault: a state in the middle of a frame, with an END
waiting -/
theorem test_witness_invariant : ∃ s t : State, s.Inv ∧ step s = .next t ∧ s.accLen = 8 := by
  refine ⟨(decoding .inPkt frame).withFetchWord 16 0x50C0, _, ⟨?_, ?_, ?_, ?_, ?_, ?_, ?_⟩, rfl, rfl⟩
  · decide
  · decide
  · decide
  · decide
  · decide
  · decide
  · intro c hc
    exact BitVec.getLsbD_of_ge _ _ hc

/-- StateIsWrittenOnlyByItsWriters, OutputsAreOnlyAddedTo: an operation that writes nothing -/
theorem test_witness_writes_nothing : ∃ t, exec .crcBlock (onData []) = .next t ∧
    isByteFeed .crcBlock = false ∧ (∀ c, Instr.crcBlock ≠ .bind c) ∧
    (∀ st, Instr.crcBlock ≠ .rxStatus st) ∧ Instr.crcBlock ≠ .reset :=
  ⟨_, rfl, rfl, nofun, nofun, by decide⟩

/-- StaleAccBytesAreNeverRead: ACC differs above ACC_LEN -/
theorem test_witness_stale : ∃ s t s' : State, SameButStaleAcc s t ∧ s ≠ t ∧ exec .lbEnd s = .next s' := by
  refine ⟨decoding .inPkt frame, { decoding .inPkt frame with
    acc := (decoding .inPkt frame).acc ++ [(9, 0x55)] }, _, ⟨rfl, ?_⟩, by decide, rfl⟩
  decide

end Sys2Proof.Tests
end

/-! The statements of 00_scope.md: what an operation adds to the outputs and the results, and that it leaves
the queue and the ports as they are. -/

namespace Sys2Proof.Machine

/-- R12, R130: every transition of the decoder only adds outputs. -/
theorem DecoderStep.outputs_append {b : Byte} {s u : State} (h : DecoderStep b s u) :
    ∃ o, u.outputs = s.outputs ++ o := by
  cases h with
  | discard _ _ ht => subst ht; exact ⟨[], by simp⟩
  | emptyFrame _ _ _ ht => subst ht; exact ⟨[], by simp⟩
  | frame _ _ _ _ _ _ _ ht => subst ht; exact ⟨_, rfl⟩
  | escape _ _ ht => subst ht; exact ⟨[], by simp⟩
  | violation _ _ ht => subst ht; exact ⟨_, resync_outputs ..⟩
  | store _ _ ht => subst ht; exact ⟨[], by simp⟩

/-- No transition of the decoder touches the results, the queue or the ports. -/
theorem DecoderStep.host_interface_frame {b : Byte} {s u : State} (h : DecoderStep b s u) :
    u.results = s.results ∧ u.inputs = s.inputs ∧ u.port = s.port := by
  cases h <;> subst_vars <;> simp

end Sys2Proof.Machine

namespace Sys2Proof.Claims

open Sys2Proof.Machine

/-- Settles O58, by the shapes of the state after an operation: each adds one result entry, and only the answers,
the decoder and the halting transition add outputs. -/
theorem outputsAreOnlyAddedTo : Obligations.OutputsAreOnlyAddedTo := by
  intro i s t h
  cases exec_effect h with
  | answer _ os r ht => subst ht; exact ⟨⟨os, rfl⟩, ⟨r, rfl⟩, rfl, rfl⟩
  | decoder _ _ u hu ht =>
    subst ht
    obtain ⟨hresults, hinputs, hport⟩ := hu.host_interface_frame
    exact ⟨hu.outputs_append, ⟨none, by simp [hresults]⟩, hinputs, hport⟩
  | bind _ _ _ ht => subst ht; exact ⟨⟨[], by simp⟩, ⟨none, rfl⟩, rfl, rfl⟩
  | halt _ _ k ht => subst ht; exact ⟨⟨[.event k.event], rfl⟩, ⟨none, rfl⟩, rfl, rfl⟩
  | reset _ ht => subst ht; exact ⟨⟨[], by simp⟩, ⟨none, rfl⟩, rfl, rfl⟩

end Sys2Proof.Claims

/-! The statements of 10_state.md: the invariant of the block, who writes which element of the state, that stale
bytes of ACC are never read, and where a dispatch may go. -/

namespace Sys2Proof.Machine

open Sys2Proof.Claims

/-! ## The invariant (R32) -/

/-- The invariant speaks of the configuration, DEC_STATE, ACC, ACC_LEN and CORE_BOUND only. -/
theorem State.Inv.congr {s t : State} (h : s.Inv) (hcfg : t.cfg = s.cfg) (hdec : t.decState = s.decState)
    (hacc : t.acc = s.acc) (hlen : t.accLen = s.accLen) (hbound : t.coreBound = s.coreBound) : t.Inv where
  cfgWf := hcfg ▸ h.cfgWf
  accWf := hacc ▸ h.accWf
  accInSpace := by rw [hacc, hcfg]; exact h.accInSpace
  accLenLe := by rw [hlen, hcfg]; exact h.accLenLe
  accDefined := by rw [hlen, hacc]; exact h.accDefined
  skipEmpty := by rw [hdec, hlen]; exact h.skipEmpty
  boundInRange := by rw [hcfg, hbound]; exact h.boundInRange

/-- Emptying the accumulator keeps the invariant in every decoder state. -/
theorem State.Inv.emptied {s : State} (h : s.Inv) (d : DecState) : ((s.withAccLen 0).withDec d).Inv where
  cfgWf := h.cfgWf
  accWf := h.accWf
  accInSpace := h.accInSpace
  accLenLe := Nat.zero_le _
  accDefined _ ha := absurd ha (Nat.not_lt_zero _)
  skipEmpty _ := rfl
  boundInRange := h.boundInRange

/-- Outside SKIP the invariant does not constrain DEC_STATE. -/
theorem State.Inv.withDec {s : State} (h : s.Inv) {d : DecState} (hd : d ≠ .skip) : (s.withDec d).Inv where
  cfgWf := h.cfgWf
  accWf := h.accWf
  accInSpace := h.accInSpace
  accLenLe := h.accLenLe
  accDefined := h.accDefined
  skipEmpty hskip := absurd hskip hd
  boundInRange := h.boundInRange

/-- R142: storing a byte at ACC_LEN, below RX_CAP, keeps the invariant. -/
theorem State.Inv.store {s : State} (h : s.Inv) (v : Byte) (hlt : s.accLen < rxCap s.cfg) :
    State.Inv { s with acc := s.acc.write s.accLen v, accLen := s.accLen + 1, decState := .inPkt } where
  cfgWf := h.cfgWf
  accWf := Memory.write_wf _ _ _ h.accWf
  accInSpace cell hcell := by
    rcases Memory.mem_write _ _ _ _ hcell with rfl | hold
    · exact hlt
    · exact h.accInSpace cell hold
  accLenLe := hlt
  accDefined a ha := by
    by_cases hnew : a = s.accLen
    · simp [hnew, Memory.read_write_same]
    · have hold : a < s.accLen := lt_of_le_of_ne (Nat.le_of_lt_succ ha) hnew
      simpa [Memory.read_write_other _ _ _ _ hnew] using h.accDefined a hold
  skipEmpty := nofun
  boundInRange := h.boundInRange

/-- R171: BIND of a core below NUM_CORES sets no bit at or above NUM_CORES. -/
theorem State.Inv.bindCore {s : State} (h : s.Inv) {c : Nibble} (hc : c.toNat < s.cfg.numCores) :
    (s.bindCore c).Inv where
  cfgWf := h.cfgWf
  accWf := h.accWf
  accInSpace := h.accInSpace
  accLenLe := h.accLenLe
  accDefined := h.accDefined
  skipEmpty := h.skipEmpty
  boundInRange d hd := by
    have hne : c.toNat ≠ d := (lt_of_lt_of_le hc hd).ne
    have hold : s.coreBound.getLsbD d = false := h.boundInRange d hd
    simp [hold, hne]

/-- R220, R33: a well-formed configuration with every element at its reset value meets the invariant. -/
theorem State.Inv.resetBlock {s : State} (h : s.cfg.wf) : s.resetBlock.Inv where
  cfgWf := h
  accWf := Memory.empty_wf
  accInSpace := nofun
  accLenLe := Nat.zero_le _
  accDefined _ ha := absurd ha (Nat.not_lt_zero _)
  skipEmpty _ := rfl
  boundInRange := by simp

/-- R32: every transition of the decoder keeps the invariant. -/
theorem DecoderStep.keeps_inv {b : Byte} {s u : State} (hu : DecoderStep b s u) (h : s.Inv) : u.Inv := by
  cases hu with
  | discard _ _ ht => subst ht; exact h
  | emptyFrame _ _ _ ht => subst ht; exact h.withDec nofun
  | frame _ _ _ _ _ _ _ ht => subst ht; exact (h.emptied .inPkt).congr rfl rfl rfl rfl rfl
  | escape _ _ ht => subst ht; exact h.withDec nofun
  | violation _ _ ht => subst ht; exact (h.emptied .inPkt).congr rfl rfl rfl rfl rfl
  | store v hlt ht => subst ht; exact h.store v hlt

/-- R32: every operation that completes keeps the invariant. -/
theorem exec_keeps_inv {i : Instr} {s t : State} (h : s.Inv) (hn : exec i s = .next t) : t.Inv := by
  cases exec_effect hn with
  | answer _ _ _ ht => subst ht; exact h.congr rfl rfl rfl rfl rfl
  | decoder _ _ _ hu ht => subst ht; exact (hu.keeps_inv h).congr rfl rfl rfl rfl rfl
  | bind _ _ hc ht => subst ht; exact (h.bindCore hc).congr rfl rfl rfl rfl rfl
  | halt _ _ _ ht => subst ht; exact h.congr rfl rfl rfl rfl rfl
  | reset _ ht => subst ht; exact (State.Inv.resetBlock h.cfgWf).congr rfl rfl rfl rfl rfl

/-- A step, where it answers, leaves an idle block as it is or executes an operation taken up. -/
theorem step_next_cases {s t : State} (h : step s = .next t) :
    t = s ∨ ∃ op rest i, exec i (s.takeUp op rest) = .next t := by
  unfold step at h
  split at h
  · exact .inl (by simpa using h.symm)
  · split at h
    · exact .inr ⟨_, _, _, h⟩
    · cases h

/-! ## Who writes what (R20) -/

/-- No transition of the decoder writes the configuration, CORE_BOUND or HALTED. -/
theorem DecoderStep.control_frame {b : Byte} {s u : State} (h : DecoderStep b s u) :
    u.cfg = s.cfg ∧ u.coreBound = s.coreBound ∧ u.halted = s.halted := by
  cases h <;> subst_vars <;> simp

/-! ## The byte feeds as acts of the decoder (R130) -/

/-- What a cell of the table of R130 has the decoder do. -/
inductive DecoderAct where
  /-- DEC_STATE changes at most -/
  | goTo (d : DecState)
  /-- `emit_frame()` in INPKT -/
  | emit
  /-- `append(v)` -/
  | append (v : Byte)
  /-- `resync(E)` -/
  | resync (e : Event)

/-- The state after an act. -/
def DecoderAct.run : DecoderAct → State → Except Fault State
  | .goTo d, s => .ok (s.withDec d)
  | .emit, s => emitFrame (s.withDec .inPkt)
  | .append v, s => Machine.append v s
  | .resync e, s => .ok (Machine.resync e s)

theorem State.withDec_self {s : State} {d : DecState} (h : s.decState = d) : s.withDec d = s := by
  subst h; rfl

/-- `append` overwrites DEC_STATE and does not read it. -/
theorem append_withDec (v : Byte) (s : State) (d : DecState) : append v (s.withDec d) = append v s := by
  by_cases hfull : s.accLen = rxCap s.cfg
  · simp [append, hfull, resync, State.withDec, State.withAccLen, State.log, State.emit]
  by_cases hlt : s.accLen < rxCap s.cfg
  · simp [append, State.memWrite, hfull, hlt, State.withDec, State.withAccLen]
  · simp [append, State.memWrite, hfull, hlt]

/-- R134 to R136. -/
theorem receiveInPkt_act (b : Byte) :
    ∃ act : DecoderAct, ∀ s, receiveInPkt b (s.withDec .inPkt) = act.run s := by
  by_cases hend : b = byteEND
  · exact ⟨.emit, fun s => by simp [receiveInPkt, hend, DecoderAct.run]⟩
  by_cases hesc : b = byteESC
  · exact ⟨.goTo .inEsc, fun s => by simp [receiveInPkt, hesc, DecoderAct.run]; rfl⟩
  · exact ⟨.append b, fun s => by simp [receiveInPkt, hend, hesc, DecoderAct.run, append_withDec]⟩

/-- R137 to R141. -/
theorem receiveInEsc_act (b : Byte) : ∃ act : DecoderAct, ∀ s, receiveInEsc b s = act.run s := by
  unfold receiveInEsc
  split
  · exact ⟨.append byteEND, fun _ => rfl⟩
  split
  · exact ⟨.append byteESC, fun _ => rfl⟩
  split
  · exact ⟨.resync .framingEndEsc, fun _ => rfl⟩
  split
  · exact ⟨.resync .framingEscEsc, fun _ => rfl⟩
  · exact ⟨.resync (.framingBadEscape b), fun _ => rfl⟩

/-- R131 to R133: a byte and a decoder state choose one act. -/
theorem receive_act (b : Byte) (d : DecState) :
    ∃ act : DecoderAct, ∀ s, s.decState = d → receive b s = act.run s := by
  obtain ⟨act, hact⟩ := receiveInPkt_act b
  cases d with
  | skip =>
    by_cases hzero : b = 0x00#8
    · exact ⟨.goTo .skip, fun s hs => by simp [receive, hs, hzero, DecoderAct.run, State.withDec_self hs]⟩
    · exact ⟨act, fun s hs => by simp [receive, hs, hzero, hact]⟩
  | inPkt => exact ⟨act, fun s hs => by rw [← hact, State.withDec_self hs]; simp [receive, hs]⟩
  | inEsc =>
    obtain ⟨act, hact⟩ := receiveInEsc_act b
    exact ⟨act, fun s hs => by simp [receive, hs, hact]⟩

/-- R133, R136, R141: LB_OTHER, of whatever byte. -/
theorem execLbOther_act (b : Byte) (d : DecState) :
    ∃ act : DecoderAct, ∀ s, s.decState = d → execLbOther b s = s.running (finish (act.run s)) := by
  cases d with
  | skip => exact ⟨.append b, fun s hs => by simp [execLbOther, hs, append_withDec, DecoderAct.run]⟩
  | inPkt => exact ⟨.append b, fun s hs => by simp [execLbOther, hs, DecoderAct.run]⟩
  | inEsc => exact ⟨.resync (.framingBadEscape b), fun s hs => by simp [execLbOther, hs, DecoderAct.run]⟩

/-- R70, R130, R131: the row of a link byte is RX_BYTE of that byte, in each decoder state. -/
theorem exec_decodeLinkByte8 (b : Byte) (s : State) : exec (decodeLinkByte8 b) s = exec (.rxByte b) s := by
  unfold decodeLinkByte8
  split
  · subst b; unfold exec execLbEnd execRxByte receive; cases s.decState <;> rfl
  split
  · subst b; unfold exec execLbEsc execRxByte receive; cases s.decState <;> rfl
  split
  · subst b; unfold exec execLbEscEnd execRxByte receive; cases s.decState <;> rfl
  split
  · subst b; unfold exec execLbEscEsc execRxByte receive; cases s.decState <;> rfl
  split
  · subst b; unfold exec execLbZero execRxByte receive; cases s.decState <;> rfl
  · unfold exec execLbOther execRxByte receive receiveInPkt receiveInEsc
    cases s.decState <;> simp_all [append_withDec]

/-- R130: a byte feed and a decoder state choose one act, and the feed does that act. -/
theorem exec_byteFeed_act {i : Instr} (hi : isByteFeed i = true) (d : DecState) :
    ∃ act : DecoderAct, ∀ s, s.decState = d → exec i s = s.running (finish (act.run s)) := by
  have feed : ∀ b, (∀ s, exec i s = exec (.rxByte b) s) →
      ∃ act : DecoderAct, ∀ s, s.decState = d → exec i s = s.running (finish (act.run s)) := by
    intro b heq
    obtain ⟨act, hact⟩ := receive_act b d
    exact ⟨act, fun s hs => by rw [heq, ← hact s hs]; rfl⟩
  cases i with
  | rxByte b => exact feed b fun _ => rfl
  | lbEnd => exact feed byteEND (exec_decodeLinkByte8 byteEND)
  | lbEsc => exact feed byteESC (exec_decodeLinkByte8 byteESC)
  | lbEscEnd => exact feed byteESCEND (exec_decodeLinkByte8 byteESCEND)
  | lbEscEsc => exact feed byteESCESC (exec_decodeLinkByte8 byteESCESC)
  | lbZero => exact feed 0x00#8 (exec_decodeLinkByte8 0x00#8)
  | lbOther b => exact execLbOther_act b d
  | _ => cases hi

/-! The cases of `emit_frame` (R144) and of `append` (R142), as equations. -/

theorem emitFrame_of_empty {s : State} (h : s.accLen = 0) : emitFrame s = .ok s := by
  simp [emitFrame, h]

theorem emitFrame_of_read {s : State} {F : List Byte} (hpos : 0 < s.accLen)
    (hF : s.memReadFrom 0 s.accLen = .ok F) :
    emitFrame s = .ok (validateAndRoute F s.port.req ((s.withAccLen 0).log (.rxFrame F))).2 := by
  simp [emitFrame, hpos, hF]

theorem append_of_full {v : Byte} {s : State} (h : s.accLen = rxCap s.cfg) :
    append v s = .ok (resync (.framingOverflow s.accLen) s) := by
  simp [append, h]

theorem append_of_room {v : Byte} {s : State} (h : s.accLen < rxCap s.cfg) :
    append v s =
      .ok { s with acc := s.acc.write s.accLen v, accLen := s.accLen + 1, decState := .inPkt } := by
  simp [append, State.memWrite, h, h.ne, State.withAccLen, State.withDec]

/-! ## Dispatches (R164, R167, R168) -/

/-- What a dispatch put out from `s` must be; an output of another kind is free. -/
def DispatchAllowed (s : State) (o : Output) : Prop :=
  ∀ c P n, o = .dispatch c P n →
    s.coreBound.getLsbD c.toNat = true ∧ c.toNat < s.cfg.numCores ∧ n = P.length ∧ 4 ≤ n

/-- `t` has the outputs of `s` and after them only allowed ones. -/
def AddsAllowed (s t : State) : Prop :=
  ∃ os, t.outputs = s.outputs ++ os ∧ ∀ o ∈ os, DispatchAllowed s o

theorem AddsAllowed.of_outputs_eq {s t : State} (h : t.outputs = s.outputs) : AddsAllowed s t :=
  ⟨[], by simp [h], by simp⟩

theorem AddsAllowed.congr {s t u : State} (h : AddsAllowed s t) (hu : u.outputs = t.outputs) :
    AddsAllowed s u := by
  unfold AddsAllowed at *; rwa [hu]

theorem AddsAllowed.emit {s t : State} (h : AddsAllowed s t) {os : List Output}
    (hos : ∀ o ∈ os, DispatchAllowed s o) : AddsAllowed s (t.emit os) := by
  obtain ⟨ps, ht, hps⟩ := h
  refine ⟨ps ++ os, by simp [ht], fun o ho => ?_⟩
  rcases List.mem_append.mp ho with ho | ho
  · exact hps o ho
  · exact hos o ho

/-- An event is no dispatch. -/
theorem AddsAllowed.log {s t : State} (h : AddsAllowed s t) (e : Event) : AddsAllowed s (t.log e) :=
  h.emit (by simp [DispatchAllowed])

/-- A byte on the TX wire is no dispatch. -/
theorem AddsAllowed.outTx {s t : State} (h : AddsAllowed s t) (bs : List Byte) : AddsAllowed s (t.outTx bs) :=
  h.emit (by simp [DispatchAllowed])

theorem addsAllowed_log (s : State) (e : Event) : AddsAllowed s (s.log e) :=
  (AddsAllowed.of_outputs_eq rfl).log e

/-- R118: the outcome of a write is bytes on the wire and an event. -/
theorem writeOutcome_addsAllowed (wr : WriteAnswer) (W F : List Byte) (s : State) :
    AddsAllowed s (writeOutcome wr W F s) := by
  have hs : AddsAllowed s s := .of_outputs_eq rfl
  unfold writeOutcome
  split
  · dsimp only
    split
    · exact hs.outTx _
    · exact (hs.outTx _).log _
  · exact hs.log _
  · exact hs.log _

theorem execSend_addsAllowed {dest : Nibble} {s t : State} (h : execSend dest s = .next t) :
    AddsAllowed s t := by
  unfold execSend at h
  obtain ⟨-, h⟩ := State.running_next h
  dsimp only at h
  split at h
  · cases h; exact addsAllowed_log ..
  split at h
  · cases h; exact addsAllowed_log ..
  split at h
  · cases h; exact addsAllowed_log ..
  · cases h; exact writeOutcome_addsAllowed ..

/-- R167, R168: acceptance dispatches to a bound core only, and a frame of at least six bytes keeps its header
when the CRC is stripped. -/
theorem accept_addsAllowed {F : List Byte} {c : Nibble} {s : State} (hlen : 6 ≤ F.length)
    (hc : c.toNat < s.cfg.numCores) : AddsAllowed s (accept F c s).2 := by
  unfold accept
  split
  · rename_i hbound
    have hstrip : 4 ≤ (stripCrc F).length := by
      simp only [stripCrc, List.length_take, crcLen]
      omega
    have hdispatch : DispatchAllowed s (.dispatch c (stripCrc F) (stripCrc F).length) := by
      rintro _ _ _ ⟨⟩
      exact ⟨hbound, hc, rfl, hstrip⟩
    exact (AddsAllowed.of_outputs_eq rfl).emit (by simpa using hdispatch)
  · exact addsAllowed_log ..

/-- R160: the validator accepts a frame only after the checks of its length and its core. -/
theorem validateAndRoute_addsAllowed (F : List Byte) (req : Byte) (s : State) :
    AddsAllowed s (validateAndRoute F req s).2 := by
  unfold validateAndRoute
  split
  · exact addsAllowed_log ..
  rename_i hlen
  split
  · exact addsAllowed_log ..
  dsimp only
  split
  · exact addsAllowed_log ..
  split
  · exact addsAllowed_log ..
  rename_i hc
  split
  · exact addsAllowed_log ..
  · exact accept_addsAllowed (not_lt.mp hlen) (not_not.mp hc)

/-- R164: what follows step 4 has a valid core. -/
theorem withValidCore_addsAllowed {F : List Byte} {s : State} {k : Nibble → Verdict × State}
    (hk : ∀ c : Nibble, c.toNat < s.cfg.numCores → AddsAllowed s (k c).2) :
    AddsAllowed s (withValidCore F s k).2 := by
  unfold withValidCore
  dsimp only
  split
  · exact hk _ ‹_›
  · exact addsAllowed_log ..

/-- A command byte row comes to its own part on frames of at least six bytes only (R161). -/
theorem judge_addsAllowed {F : List Byte} {s t : State} {r : Verdict × State} (h : judge F s r = .next t)
    (hr : 6 ≤ F.length → AddsAllowed s r.2) : AddsAllowed s t := by
  unfold judge at h
  split at h
  · cases h
  · cases (State.running_next h).2
    unfold integrityReject
    split
    · exact addsAllowed_log s _
    rename_i hlen
    split
    · exact addsAllowed_log s _
    · exact hr (not_lt.mp hlen)

/-- R144: what the decoder emits goes through the validator. -/
theorem emitFrame_addsAllowed {s t : State} (h : emitFrame s = .ok t) : AddsAllowed s t := by
  unfold emitFrame at h
  split at h
  · split at h
    · cases h
    · rename_i F _
      cases h
      have hlog : AddsAllowed s ((s.withAccLen 0).log (.rxFrame F)) := addsAllowed_log s _
      obtain ⟨os, hos, hallowed⟩ :=
        validateAndRoute_addsAllowed F s.port.req ((s.withAccLen 0).log (.rxFrame F))
      exact (hlog.emit hallowed).congr hos
  · cases h; exact .of_outputs_eq rfl

/-- Of the decoder's acts only the emission of a frame can dispatch. -/
theorem DecoderAct.run_addsAllowed {act : DecoderAct} {s u : State} (h : act.run s = .ok u) :
    AddsAllowed s u := by
  cases act with
  | goTo d => cases h; exact .of_outputs_eq rfl
  | emit => exact emitFrame_addsAllowed (s := s.withDec .inPkt) h
  | append v =>
    rcases append_cases h with ⟨-, rfl⟩ | ⟨-, rfl⟩
    · exact addsAllowed_log s _
    · exact .of_outputs_eq rfl
  | resync e => cases h; exact addsAllowed_log s e

/-- R168: no operation puts out a dispatch that is not allowed. -/
theorem exec_addsAllowed {i : Instr} {s t : State} (h : exec i s = .next t) : AddsAllowed s t := by
  by_cases hi : isByteFeed i = true
  · obtain ⟨act, hact⟩ := exec_byteFeed_act hi s.decState
    rw [hact s rfl] at h
    obtain ⟨u, hu, rfl⟩ := finish_next (State.running_next h).2
    exact (DecoderAct.run_addsAllowed hu).congr rfl
  cases i with
  | crcStep b => cases (State.running_next h).2; exact .of_outputs_eq rfl
  | crcBlock => cases (State.running_next h).2; exact .of_outputs_eq rfl
  | encode => obtain ⟨r, rfl⟩ := execEncode_next h; exact .of_outputs_eq rfl
  | send dest => exact execSend_addsAllowed h
  | rxStatus st =>
    cases st <;> cases (State.running_next h).2
    · exact .of_outputs_eq rfl
    · exact addsAllowed_log s _
    · exact addsAllowed_log s _
  | parse req =>
    simp only [exec, execParse] at h
    split at h
    · cases h
    · cases (State.running_next h).2
      exact validateAndRoute_addsAllowed _ _ s
  | bind c =>
    simp only [exec, execBind] at h
    split at h
    · cases (State.running_next h).2; exact .of_outputs_eq rfl
    · cases h
  | reset => cases h; exact .of_outputs_eq rfl
  | cmdNop a b c => exact judge_addsAllowed h fun _ => addsAllowed_log ..
  | cmdRead a b c =>
    refine judge_addsAllowed h fun hlen => withValidCore_addsAllowed fun c hc => ?_
    split
    · exact accept_addsAllowed hlen hc
    · exact addsAllowed_log ..
  | cmdWrite a b c =>
    exact judge_addsAllowed h fun hlen => withValidCore_addsAllowed fun c hc => accept_addsAllowed hlen hc
  | cmdWrrd a b c =>
    refine judge_addsAllowed h fun hlen => ?_
    split
    · exact withValidCore_addsAllowed fun c hc => accept_addsAllowed hlen hc
    · exact addsAllowed_log ..
  | _ => exact absurd rfl hi

/-! ## Stale bytes of ACC (R22, R41)

An operation that is no byte feed and not RESET commutes with any change of ACC, because it looks at the
configuration, the ports, CORE_BOUND and HALTED alone. A byte feed reads ACC below ACC_LEN only. -/

/-- The state with ACC held as these bytes and this counter (log entry 6). -/
def State.withAcc (m : Memory) (epoch : Nat) (s : State) : State := { s with acc := m, accEpoch := epoch }

/-- That change made to the state of a judgement. -/
def judgedWithAcc (m : Memory) (epoch : Nat) (r : Verdict × State) : Verdict × State :=
  (r.1, r.2.withAcc m epoch)

/-- That change made to the next state of an answer. -/
def answerWithAcc (m : Memory) (epoch : Nat) : Answer → Answer
  | .next t => .next (t.withAcc m epoch)
  | .fault f => .fault f
  | .refused r => .refused r

/-- A choice between mapped values is the mapped choice, each branch up to an equation. -/
theorem ite_eq_apply_ite {α β : Type} {p : Prop} [Decidable p] (f : α → β) {a b : α} {a' b' : β}
    (ha : a' = f a) (hb : b' = f b) : (if p then a' else b') = f (if p then a else b) := by
  rw [ha, hb, apply_ite f]

section
variable (m : Memory) (e : Nat) (s : State)

theorem State.running_withAcc {k k' : Answer} (hk : k' = answerWithAcc m e k) :
    (s.withAcc m e).running k' = answerWithAcc m e (s.running k) :=
  ite_eq_apply_ite (answerWithAcc m e) rfl hk

theorem accept_withAcc (F : List Byte) (c : Nibble) :
    accept F c (s.withAcc m e) = judgedWithAcc m e (accept F c s) :=
  ite_eq_apply_ite (judgedWithAcc m e) rfl rfl

theorem withValidCore_withAcc (F : List Byte) {k k' : Nibble → Verdict × State}
    (hk : ∀ c, k' c = judgedWithAcc m e (k c)) :
    withValidCore F (s.withAcc m e) k' = judgedWithAcc m e (withValidCore F s k) :=
  ite_eq_apply_ite (judgedWithAcc m e) (hk _) rfl

theorem validateAndRoute_withAcc (F : List Byte) (req : Byte) :
    validateAndRoute F req (s.withAcc m e) = judgedWithAcc m e (validateAndRoute F req s) := by
  refine ite_eq_apply_ite (judgedWithAcc m e) rfl ?_
  refine ite_eq_apply_ite (judgedWithAcc m e) rfl ?_
  refine ite_eq_apply_ite (judgedWithAcc m e) rfl ?_
  refine ite_eq_apply_ite (judgedWithAcc m e) rfl ?_
  exact ite_eq_apply_ite (judgedWithAcc m e) rfl (accept_withAcc m e s F _)

theorem integrityReject_withAcc (F : List Byte) {r r' : Verdict × State} (hr : r' = judgedWithAcc m e r) :
    (integrityReject F (s.withAcc m e)).getD r' = judgedWithAcc m e ((integrityReject F s).getD r) := by
  unfold integrityReject
  split_ifs
  · rfl
  · rfl
  · exact hr

theorem judge_withAcc (F : List Byte) {r r' : Verdict × State} (hr : r' = judgedWithAcc m e r) :
    judge F (s.withAcc m e) r' = answerWithAcc m e (judge F s r) := by
  refine ite_eq_apply_ite (answerWithAcc m e) rfl (State.running_withAcc m e s ?_)
  rw [integrityReject_withAcc m e s F hr]
  rfl

theorem writeOutcome_withAcc (wr : WriteAnswer) (W F : List Byte) :
    writeOutcome wr W F (s.withAcc m e) = (writeOutcome wr W F s).withAcc m e := by
  cases wr with
  | wrote n => exact ite_eq_apply_ite (State.withAcc m e) rfl rfl
  | wouldBlock => rfl
  | error => rfl

theorem execSend_withAcc (dest : Nibble) :
    execSend dest (s.withAcc m e) = answerWithAcc m e (execSend dest s) := by
  refine State.running_withAcc m e s ?_
  refine ite_eq_apply_ite (answerWithAcc m e) rfl ?_
  refine ite_eq_apply_ite (answerWithAcc m e) rfl ?_
  refine ite_eq_apply_ite (answerWithAcc m e) rfl ?_
  exact congrArg Host.Outcome.next (writeOutcome_withAcc m e s _ _ _)

/-- An operation that is no byte feed and not RESET neither reads nor writes ACC. -/
theorem exec_withAcc {i : Instr} (hi : isByteFeed i = false) (hreset : i ≠ .reset) :
    exec i (s.withAcc m e) = answerWithAcc m e (exec i s) := by
  cases i with
  | crcStep b => exact State.running_withAcc m e s rfl
  | crcBlock => exact State.running_withAcc m e s rfl
  | encode => exact State.running_withAcc m e s (ite_eq_apply_ite (answerWithAcc m e) rfl rfl)
  | send dest => exact execSend_withAcc m e s dest
  | rxStatus st => exact State.running_withAcc m e s (by cases st <;> rfl)
  | parse req =>
    refine ite_eq_apply_ite (answerWithAcc m e) rfl (State.running_withAcc m e s ?_)
    exact congrArg (fun r => Host.Outcome.next (replyVerdict r)) (validateAndRoute_withAcc m e s s.port.data req)
  | bind c => exact ite_eq_apply_ite (answerWithAcc m e) (State.running_withAcc m e s rfl) rfl
  | cmdNop a b c => exact judge_withAcc m e s _ rfl
  | cmdRead a b c =>
    refine judge_withAcc m e s _ (withValidCore_withAcc m e s _ fun c => ?_)
    exact ite_eq_apply_ite (judgedWithAcc m e) (accept_withAcc m e s _ c) rfl
  | cmdWrite a b c =>
    exact judge_withAcc m e s _ (withValidCore_withAcc m e s _ fun c => accept_withAcc m e s _ c)
  | cmdWrrd a b c =>
    refine judge_withAcc m e s _ (ite_eq_apply_ite (judgedWithAcc m e) ?_ rfl)
    exact withValidCore_withAcc m e s _ fun c => accept_withAcc m e s _ c
  | reset => exact absurd rfl hreset
  | _ => cases hi

end

/-! ### The decoder's reads of ACC -/

/-- Two ways to hold ACC give the bytes below ACC_LEN alike. -/
def LiveBytesAlike (s : State) (m : Memory) (e : Nat) : Prop :=
  ∀ a < s.accLen, (s.withAcc m e).accByte a = s.accByte a

theorem sameButStaleAcc_iff {s t : State} :
    SameButStaleAcc s t ↔ ∃ m e, t = s.withAcc m e ∧ LiveBytesAlike s m e := by
  constructor
  · rintro ⟨ht, hbytes⟩
    refine ⟨t.acc, t.accEpoch, ht, fun a ha => ?_⟩
    exact (State.accByte_congr rfl rfl a).trans (hbytes a ha)
  · rintro ⟨m, e, rfl, hbytes⟩
    exact ⟨rfl, hbytes⟩

theorem LiveBytesAlike.of_empty {s : State} (h : s.accLen = 0) (m : Memory) (e : Nat) : LiveBytesAlike s m e := by
  intro a ha
  omega

section
variable {s : State} {m : Memory} {e : Nat} (h : LiveBytesAlike s m e)
include h

theorem LiveBytesAlike.memReadFrom_eq (n a : Nat) (hle : a + n ≤ s.accLen) :
    (s.withAcc m e).memReadFrom a n = s.memReadFrom a n := by
  induction n generalizing a with
  | zero => rfl
  | succ n ih =>
    have hread : (s.withAcc m e).memRead a = s.memRead a := by
      unfold State.memRead
      rw [h a (by omega)]
      rfl
    unfold State.memReadFrom
    rw [hread, ih (a + 1) (by omega)]

/-- R144, R41: the emission of a frame reads no byte at or above ACC_LEN. -/
theorem LiveBytesAlike.emitFrame_eq {u : State} (hu : emitFrame s = .ok u) :
    emitFrame (s.withAcc m e) = .ok (u.withAcc m e) := by
  rcases emitFrame_cases hu with ⟨hempty, rfl⟩ | ⟨hpos, F, -, hF, -, -⟩
  · exact emitFrame_of_empty hempty
  · obtain rfl : _ = u := Except.ok.inj ((emitFrame_of_read hpos hF).symm.trans hu)
    have hF' : (s.withAcc m e).memReadFrom 0 (s.withAcc m e).accLen = .ok F :=
      (h.memReadFrom_eq s.accLen 0 (by omega)).trans hF
    refine (emitFrame_of_read (s := s.withAcc m e) hpos hF').trans ?_
    exact congrArg (fun r => Except.ok r.2)
      (validateAndRoute_withAcc m e ((s.withAccLen 0).log (.rxFrame F)) F s.port.req)

/-- R142, R41: an append reads no byte of ACC, and the byte it stores is stored alike. -/
theorem LiveBytesAlike.append_alike {v : Byte} {u : State} (hu : append v s = .ok u) :
    ∃ m', append v (s.withAcc m e) = .ok (u.withAcc m' e) ∧ LiveBytesAlike u m' e := by
  rcases append_cases hu with ⟨hfull, rfl⟩ | ⟨hroom, rfl⟩
  · exact ⟨m, append_of_full hfull, .of_empty rfl m e⟩
  · refine ⟨m.write s.accLen v, append_of_room hroom, fun a ha => ?_⟩
    have hs : State.accByte { s with acc := s.acc.write s.accLen v } a = _ := State.accByte_write s s.accLen a v
    have ht := State.accByte_write (s.withAcc m e) s.accLen a v
    refine ht.trans (Eq.trans ?_ hs.symm)
    split
    · rfl
    · exact h a (lt_of_le_of_ne (Nat.le_of_lt_succ ha) ‹_›)

/-- Each act of the decoder reads no byte at or above ACC_LEN. -/
theorem LiveBytesAlike.run_alike {act : DecoderAct} {u : State} (hu : act.run s = .ok u) :
    ∃ m', act.run (s.withAcc m e) = .ok (u.withAcc m' e) ∧ LiveBytesAlike u m' e := by
  cases act with
  | goTo d => cases hu; exact ⟨m, rfl, h⟩
  | emit =>
    have hd : LiveBytesAlike (s.withDec .inPkt) m e := h
    refine ⟨m, hd.emitFrame_eq hu, ?_⟩
    rcases emitFrame_cases hu with ⟨-, rfl⟩ | ⟨-, _, _, -, -, rfl⟩
    · exact h
    · exact .of_empty rfl m e
  | append v => exact h.append_alike hu
  | resync ev => cases hu; exact ⟨m, rfl, .of_empty rfl m e⟩

/-- R130, R41: neither does a byte feed. -/
theorem LiveBytesAlike.byteFeed_alike {i : Instr} (hi : isByteFeed i = true) {t : State}
    (hn : exec i s = .next t) :
    ∃ m', exec i (s.withAcc m e) = .next (t.withAcc m' e) ∧ LiveBytesAlike t m' e := by
  obtain ⟨act, hact⟩ := exec_byteFeed_act hi s.decState
  rw [hact s rfl] at hn
  obtain ⟨hrun, hn⟩ := State.running_next hn
  obtain ⟨u, hu, rfl⟩ := finish_next hn
  obtain ⟨m', hu', hbytes⟩ := h.run_alike hu
  refine ⟨m', ?_, hbytes⟩
  rw [hact (s.withAcc m e) rfl, hu']
  exact State.running_of_not_halted (s.withAcc m e) _ hrun

end

end Sys2Proof.Machine

namespace Sys2Proof.Claims

open Sys2Proof.Machine

/-- Settles O52, by the shapes of the state after an operation: only the decoder, BIND and RESET write what the
invariant speaks of, and each keeps it. -/
theorem everyStepKeepsTheInvariant : Obligations.EveryStepKeepsTheInvariant := by
  intro s t h hs
  rcases step_next_cases hs with rfl | ⟨op, rest, i, hn⟩
  · exact h
  · have hup : (s.takeUp op rest).Inv := h.congr rfl rfl rfl rfl rfl
    exact exec_keeps_inv hup hn

/-- Settles O55, by the shapes of the state after an operation. -/
theorem stateIsWrittenOnlyByItsWriters : Obligations.StateIsWrittenOnlyByItsWriters := by
  intro i s t h
  cases exec_effect h with
  | answer _ _ _ ht =>
    subst ht
    exact ⟨rfl, fun _ _ => rfl, fun _ _ => rfl, fun _ _ => ⟨rfl, rfl, fun _ => rfl⟩⟩
  | decoder hi b u hu ht =>
    subst ht
    obtain ⟨hcfg, hbound, hhalted⟩ := hu.control_frame
    exact ⟨hcfg, fun _ _ => hbound, fun _ _ => hhalted, fun hno _ => by simp [hi] at hno⟩
  | bind c hi _ ht =>
    subst ht
    exact ⟨rfl, fun hno _ => absurd hi (hno c), fun _ _ => rfl, fun _ _ => ⟨rfl, rfl, fun _ => rfl⟩⟩
  | halt st hi k ht =>
    subst ht
    exact ⟨rfl, fun _ _ => rfl, fun hno _ => absurd hi (hno st), fun _ _ => ⟨rfl, rfl, fun _ => rfl⟩⟩
  | reset hi ht =>
    subst ht
    exact ⟨rfl, fun _ hno => absurd hi hno, fun _ hno => absurd hi hno, fun _ hno => absurd hi hno⟩

/-- Settles O56: RESET empties ACC, a byte feed reads the bytes below ACC_LEN alone, and every other operation
leaves ACC and ACC_LEN as they are and does not look at them. -/
theorem staleAccBytesAreNeverRead : Obligations.StaleAccBytesAreNeverRead := by
  intro i s t s' hst hn
  obtain ⟨m, e, rfl, hbytes⟩ := sameButStaleAcc_iff.mp hst
  by_cases hi : isByteFeed i = true
  · obtain ⟨m', hn', hbytes'⟩ := hbytes.byteFeed_alike hi hn
    exact ⟨_, hn', sameButStaleAcc_iff.mpr ⟨m', e, rfl, hbytes'⟩⟩
  by_cases hreset : i = .reset
  · subst hreset
    cases hn
    exact ⟨_, rfl, sameButStaleAcc_iff.mpr ⟨[], e + 1, rfl, .of_empty rfl _ _⟩⟩
  · have hfeed : isByteFeed i = false := by simpa using hi
    obtain ⟨-, -, -, hacc⟩ := stateIsWrittenOnlyByItsWriters i s s' hn
    obtain ⟨-, hlen, hsame⟩ := hacc hfeed hreset
    refine ⟨s'.withAcc m e, by rw [exec_withAcc m e s hfeed hreset, hn]; rfl, ?_⟩
    refine sameButStaleAcc_iff.mpr ⟨m, e, rfl, fun a ha => ?_⟩
    exact (hbytes a (hlen ▸ ha)).trans (hsame a).symm

/-- Settles O57: what an operation adds to the outputs is one list, and each dispatch in it came through `accept`
on a bound, valid core with a frame of at least six bytes. -/
theorem dispatchGoesOnlyToBoundCores : Obligations.DispatchGoesOnlyToBoundCores := by
  intro i s t o c P n h ho hmem
  obtain ⟨os, hos, hallowed⟩ := exec_addsAllowed h
  obtain rfl : o = os := List.append_cancel_left (ho.symm.trans hos)
  exact hallowed _ hmem c P n rfl

/-- Settles O51: the values of R33 and the defaults of R8 stand in the definition of the reset state. -/
theorem resetStateHasTheStatedValues : Obligations.ResetStateHasTheStatedValues :=
  ⟨rfl, rfl, rfl, rfl, rfl, rfl, rfl, rfl⟩

/-- Settles O53: the default configuration is well formed, and every element is at its reset value. -/
theorem resetStateMeetsTheInvariant : Obligations.ResetStateMeetsTheInvariant :=
  (State.Inv.resetBlock (s := State.reset) (by decide)).congr rfl rfl rfl rfl rfl

end Sys2Proof.Claims

/-! The statements of 30_encoding.md: the words of the three formats, decoded and encoded. -/

namespace Sys2Proof

/-! ## Host command words (R60, R61) -/

section
variable (op sub : Nibble) (imm : Byte)

@[simp] theorem word16_op : (word16 op sub imm).extractLsb' 12 4 = op :=
  (BitVec.extractLsb'_append_eq_of_le (by decide)).trans BitVec.extractLsb'_append_eq_left

@[simp] theorem word16_sub : (word16 op sub imm).extractLsb' 8 4 = sub :=
  (BitVec.extractLsb'_append_eq_of_le (by decide)).trans BitVec.extractLsb'_append_eq_right

@[simp] theorem word16_imm : (word16 op sub imm).extractLsb' 0 8 = imm :=
  BitVec.extractLsb'_append_eq_right

@[simp] theorem word16_immHi : (word16 op sub imm).extractLsb' 4 4 = imm.extractLsb' 4 4 :=
  BitVec.extractLsb'_append_eq_of_add_le (by decide)

@[simp] theorem word16_immLo : (word16 op sub imm).extractLsb' 0 4 = imm.extractLsb' 0 4 :=
  BitVec.extractLsb'_append_eq_of_add_le (by decide)

end

/-- R60: the fields of a host command word make it up. -/
theorem word16_fields (w : U16) :
    word16 (w.extractLsb' 12 4) (w.extractLsb' 8 4) (w.extractLsb' 0 8) = w := by
  unfold word16
  rw [BitVec.extractLsb'_append_extractLsb'_eq_extractLsb' (by rfl),
    BitVec.extractLsb'_append_extractLsb'_eq_extractLsb' (by rfl), BitVec.extractLsb'_eq_self]

/-- A byte whose high nibble is 0 is its low nibble. -/
theorem zero_append_low_nibble {b : Byte} (h : b.extractLsb' 4 4 = 0#4) : (0 : Nibble) ++ b.extractLsb' 0 4 = b :=
  calc (0 : Nibble) ++ b.extractLsb' 0 4 = b.extractLsb' 4 4 ++ b.extractLsb' 0 4 := by rw [h]; rfl
    _ = b := BitVec.extractLsb'_append_extractLsb'

theorem nibble_eq_of_toNat {op : Nibble} {n : Nat} (h : op.toNat = n) : op = BitVec.ofNat 4 n := by
  rw [← h, BitVec.ofNat_toNat, BitVec.setWidth_eq]

theorem decodeStatus_statusCode (st : LinkStatus) : decodeStatus (statusCode st) = .ok (.rxStatus st) := by
  cases st <;> rfl

theorem decodeStatus_ok {sub : Nibble} {i : Instr} (h : decodeStatus sub = .ok i) :
    ∃ st, i = .rxStatus st ∧ statusCode st = sub := by
  unfold decodeStatus at h
  split at h <;> cases h <;> exact ⟨_, rfl, (nibble_eq_of_toNat ‹_›).symm⟩

@[simp] theorem zero_append_immHi (x : Nibble) : (0#4 ++ x : Byte).extractLsb' 4 4 = 0#4 :=
  BitVec.extractLsb'_append_eq_left

@[simp] theorem zero_append_immLo (x : Nibble) : (0#4 ++ x : Byte).extractLsb' 0 4 = x :=
  BitVec.extractLsb'_append_eq_right

/-- A guarded decoding, where it answers, met its guard. -/
theorem of_guarded_ok {p : Prop} [Decidable p] {x : Except DecodeError Instr} {e : DecodeError} {i : Instr}
    (h : (if p then x else .error e) = .ok i) : p ∧ x = .ok i := by
  split at h
  · exact ⟨‹_›, h⟩
  · cases h

/-- R61: the host command word of an instruction decodes to it. -/
theorem decodeCmd16_of_encodeWord {L : CmdLayout} {i : Instr} {w : U16} (h : encodeWord L i = .cmd16 w) :
    decodeCmd16 w = .ok i := by
  unfold decodeCmd16
  cases i <;> cases h <;>
    simp only [word16_op, word16_sub, word16_imm, word16_immHi, word16_immLo]
  case send | bind => simp only [BitVec.ofNat_eq_ofNat, zero_append_immHi, zero_append_immLo]; rfl
  case rxStatus st => exact decodeStatus_statusCode st
  all_goals rfl

/-- R61: a host command word that decodes is the word of its instruction. -/
theorem encodeWord_of_decodeCmd16 (L : CmdLayout) {w : U16} {i : Instr} (h : decodeCmd16 w = .ok i) :
    encodeWord L i = .cmd16 w := by
  rw [← word16_fields w] at h ⊢
  generalize w.extractLsb' 12 4 = op, w.extractLsb' 8 4 = sub, w.extractLsb' 0 8 = imm at h ⊢
  unfold decodeCmd16 at h
  simp only [word16_op, word16_sub, word16_imm, word16_immHi, word16_immLo] at h
  split at h
  case h_10 => cases h
  all_goals obtain rfl := nibble_eq_of_toNat ‹op.toNat = _›
  case h_1 | h_5 | h_7 =>
    obtain ⟨rfl, hi⟩ := of_guarded_ok h
    cases hi
    rfl
  case h_2 | h_3 | h_9 =>
    obtain ⟨⟨rfl, rfl⟩, hi⟩ := of_guarded_ok h
    cases hi
    rfl
  case h_4 | h_8 =>
    obtain ⟨⟨rfl, hhi⟩, hi⟩ := of_guarded_ok h
    cases hi
    rw [encodeWord, zero_append_low_nibble hhi]
    rfl
  case h_6 =>
    obtain ⟨rfl, hi⟩ := of_guarded_ok h
    obtain ⟨st, rfl, rfl⟩ := decodeStatus_ok hi
    rfl

/-! ## Command bytes (R75, R76) -/

/-- The places of AUTO, OP and INC share out bits [3:0], in the arithmetic of their positions. -/
theorem CmdLayout.wf.places {L : CmdLayout} (hL : L.wf) :
    (L.opLo.val < 3 ∧ L.autoBit.val < 4 ∧ L.incBit.val < 4) ∧
    (L.autoBit.val ≠ L.incBit.val ∧ L.autoBit.val ≠ L.opLo.val ∧ L.autoBit.val ≠ L.opLo.val + 1 ∧
      L.incBit.val ≠ L.opLo.val ∧ L.incBit.val ≠ L.opLo.val + 1) := by
  obtain ⟨⟨hauto, hrest⟩, -⟩ := hL
  exact ⟨⟨L.opLo.isLt, L.autoBit.isLt, L.incBit.isLt⟩, Fin.val_ne_of_ne hauto, hrest⟩

/-- A field at place `p` of a byte gives the bits from `p` on. -/
theorem getLsbD_placed_inside {n p k : Nat} (x : BitVec n) (hk : k < 8) (hp : p ≤ k) :
    (x.setWidth 8 <<< p).getLsbD k = x.getLsbD (k - p) := by
  have : k - p < 8 := by omega
  simp [*]

/-- A field at place `p` of a byte leaves the other bits 0. -/
theorem getLsbD_placed_outside {n p k : Nat} (x : BitVec n) (h : k < p ∨ p + n ≤ k) :
    (x.setWidth 8 <<< p).getLsbD k = false := by
  rcases h with hlo | hhi
  · simp [hlo]
  · have hge : x.getLsbD (k - p) = false := BitVec.getLsbD_of_ge x _ (by omega)
    simp [hge]

section
variable {L : CmdLayout} (hL : L.wf) (sentinel : Nibble) (auto inc : Bool) (op : BitVec 2)
include hL

/-- Each bit of a command byte comes from the one field whose place it is, as the places are disjoint. -/
theorem CmdLayout.cmdByte_getLsbD {k : Nat} (hk : k < 8) :
    (L.cmdByte sentinel auto inc op).getLsbD k =
      if 4 ≤ k then sentinel.getLsbD (k - 4)
      else if L.opLo.val ≤ k ∧ k < L.opLo.val + 2 then op.getLsbD (k - L.opLo.val)
      else if k = L.autoBit.val then auto else inc := by
  have hplaces := hL.places
  simp only [CmdLayout.cmdByte, BitVec.getLsbD_or]
  split_ifs with hs ho ha
  · rw [getLsbD_placed_inside _ hk hs, getLsbD_placed_outside op (by omega),
      getLsbD_placed_outside _ (by omega), getLsbD_placed_outside _ (by omega)]
    simp
  · rw [getLsbD_placed_inside op hk ho.1, getLsbD_placed_outside sentinel (by omega),
      getLsbD_placed_outside _ (by omega), getLsbD_placed_outside _ (by omega)]
    simp
  · subst ha
    rw [getLsbD_placed_inside (.ofBool auto) hk le_rfl, getLsbD_placed_outside sentinel (by omega),
      getLsbD_placed_outside op (by omega), getLsbD_placed_outside _ (by omega)]
    simp
  · obtain rfl : k = L.incBit.val := by omega
    rw [getLsbD_placed_inside (.ofBool inc) hk le_rfl, getLsbD_placed_outside sentinel (by omega),
      getLsbD_placed_outside op (by omega), getLsbD_placed_outside _ (by omega)]
    simp

theorem CmdLayout.sentinelOf_cmdByte : sentinelOf (L.cmdByte sentinel auto inc op) = sentinel := by
  apply BitVec.eq_of_getLsbD_eq
  intro j hj
  rw [sentinelOf, BitVec.getLsbD_extractLsb', cmdByte_getLsbD hL _ _ _ _ (by omega)]
  simp [hj]

theorem CmdLayout.opOf_cmdByte : L.opOf (L.cmdByte sentinel auto inc op) = op := by
  apply BitVec.eq_of_getLsbD_eq
  intro j hj
  have hplaces := hL.places
  have hlow : ¬ 4 ≤ L.opLo.val + j := by omega
  rw [CmdLayout.opOf, BitVec.getLsbD_extractLsb', CmdLayout.cmdByte_getLsbD hL _ _ _ _ (by omega)]
  simp [hj, hlow]

theorem CmdLayout.autoOf_cmdByte : L.autoOf (L.cmdByte sentinel auto inc op) = auto := by
  have hplaces := hL.places
  rw [CmdLayout.autoOf, CmdLayout.cmdByte_getLsbD hL _ _ _ _ (by omega), if_neg (by omega), if_neg (by omega),
    if_pos rfl]

theorem CmdLayout.incOf_cmdByte : L.incOf (L.cmdByte sentinel auto inc op) = inc := by
  have hplaces := hL.places
  rw [CmdLayout.incOf, CmdLayout.cmdByte_getLsbD hL _ _ _ _ (by omega), if_neg (by omega), if_neg (by omega),
    if_neg (by omega)]

/-- R75: the fields a command byte is decoded by make it up, as their places cover bits [3:0]. -/
theorem CmdLayout.cmdByte_fields (b : Byte) :
    L.cmdByte (sentinelOf b) (L.autoOf b) (L.incOf b) (L.opOf b) = b := by
  apply BitVec.eq_of_getLsbD_eq
  intro k hk
  have hplaces := hL.places
  rw [cmdByte_getLsbD hL _ _ _ _ hk]
  split_ifs with hs ho ha
  · have : k - 4 < 4 := by omega
    have : 4 + (k - 4) = k := by omega
    simp [sentinelOf, *]
  · have : k - L.opLo.val < 2 := by omega
    have : L.opLo.val + (k - L.opLo.val) = k := by omega
    simp [CmdLayout.opOf, *]
  · rw [ha]; rfl
  · have hinc : L.incBit.val = k := by omega
    rw [CmdLayout.incOf, hinc]

/-- R76: with four different numbers, an OP that is not NOP, READ or WRITE is WRRD. -/
theorem CmdLayout.wf.eq_opWrrd (hn : op ≠ L.opNop) (hr : op ≠ L.opRead) (hw : op ≠ L.opWrite) :
    op = L.opWrrd := by
  obtain ⟨-, hops⟩ := hL
  bv_omega

/-- R75: a packet command byte is the byte of the row it decodes to. -/
theorem encodeWord_decodePktCmd8 (b : Byte) : encodeWord L (decodePktCmd8 L b) = .pktCmd8 b := by
  have hfields := CmdLayout.cmdByte_fields hL b
  unfold decodePktCmd8
  dsimp only
  split_ifs with hn hr hw
  · rw [encodeWord, ← hn, hfields]
  · rw [encodeWord, ← hr, hfields]
  · rw [encodeWord, ← hw, hfields]
  · rw [encodeWord, ← hL.eq_opWrrd _ hn hr hw, hfields]

/-- R75: the fields a command byte is made of are those it is decoded by. -/
theorem decodePktCmd8_cmdByte :
    decodePktCmd8 L (L.cmdByte sentinel auto inc op) =
      if op = L.opNop then .cmdNop sentinel auto inc
      else if op = L.opRead then .cmdRead sentinel auto inc
      else if op = L.opWrite then .cmdWrite sentinel auto inc
      else .cmdWrrd sentinel auto inc := by
  simp only [decodePktCmd8, CmdLayout.sentinelOf_cmdByte hL, CmdLayout.autoOf_cmdByte hL,
    CmdLayout.incOf_cmdByte hL, CmdLayout.opOf_cmdByte hL]

/-- R75, R76: the byte of a packet command row decodes to that row, as the four numbers differ. -/
theorem decodePktCmd8_of_encodeWord {i : Instr} {b : Byte} (h : encodeWord L i = .pktCmd8 b) :
    decodePktCmd8 L b = i := by
  have hdecode := decodePktCmd8_cmdByte hL
  obtain ⟨-, hnr, hnw, hnx, hrw, hrx, hwx⟩ := hL
  cases i <;> cases h
  case cmdNop => rw [hdecode, if_pos rfl]
  case cmdRead => rw [hdecode, if_neg hnr.symm, if_pos rfl]
  case cmdWrite => rw [hdecode, if_neg hnw.symm, if_neg hrw.symm, if_pos rfl]
  case cmdWrrd => rw [hdecode, if_neg hnx.symm, if_neg hrx.symm, if_neg hwx.symm]

end

/-! ## Link bytes (R70) -/

/-- R70: a link byte is the byte of its class. -/
theorem encodeWord_decodeLinkByte8 (L : CmdLayout) (b : Byte) : encodeWord L (decodeLinkByte8 b) = .linkByte8 b := by
  unfold decodeLinkByte8
  split_ifs <;> subst_vars <;> rfl

/-- R70: the byte of a link byte row decodes to that row, where OTHER holds no byte of another class. -/
theorem decodeLinkByte8_of_encodeWord {L : CmdLayout} {c : Config} {i : Instr} {b : Byte} (hi : i.wf c = true)
    (h : encodeWord L i = .linkByte8 b) : decodeLinkByte8 b = i := by
  cases i <;> cases h
  case lbOther =>
    simp only [Instr.wf, Bool.and_eq_true, bne_iff_ne] at hi
    simp [decodeLinkByte8, hi]
  all_goals rfl

/-! ## Refusals (R66) -/

section
variable (w : U16)

theorem toNat_opField : (w.extractLsb' 12 4).toNat = w.toNat / 4096 := by
  have hw := w.isLt
  rw [BitVec.extractLsb'_toNat, Nat.shiftRight_eq_div_pow]
  omega

theorem toNat_subField : (w.extractLsb' 8 4).toNat = w.toNat / 256 % 16 := by
  rw [BitVec.extractLsb'_toNat, Nat.shiftRight_eq_div_pow]

theorem toNat_immField : (w.extractLsb' 0 8).toNat = w.toNat % 256 := by
  rw [BitVec.extractLsb'_toNat, Nat.shiftRight_zero]

theorem toNat_immHiField : (w.extractLsb' 4 4).toNat = w.toNat % 256 / 16 := by
  rw [BitVec.extractLsb'_toNat, Nat.shiftRight_eq_div_pow]
  omega

theorem toNat_immLoField : (w.extractLsb' 0 4).toNat = w.toNat % 256 % 16 := by
  rw [BitVec.extractLsb'_toNat, Nat.shiftRight_zero]
  omega

end

/-- The clauses of R66 that look at the word alone. -/
def Undecodable (w : U16) : Prop :=
  let op := w.toNat / 4096
  let sub := w.toNat / 256 % 16
  let imm := w.toNat % 256
  (op = 0 ∨ (9 ≤ op ∧ op ≤ 14)) ∨
  ((op = 1 ∨ op = 5 ∨ op = 7) ∧ sub ≠ 0) ∨
  ((op = 2 ∨ op = 3 ∨ op = 15) ∧ (sub ≠ 0 ∨ imm ≠ 0)) ∨
  ((op = 4 ∨ op = 8) ∧ (sub ≠ 0 ∨ imm / 16 ≠ 0)) ∨
  (op = 6 ∧ (sub / 4 ≠ 0 ∨ imm ≠ 0 ∨ sub % 4 = 3))

theorem guarded_error_iff {p : Prop} [Decidable p] {x : Except DecodeError Instr} {e : DecodeError} :
    (∃ r, (if p then x else .error e) = .error r) ↔ ¬ p ∨ ∃ r, x = .error r := by
  split <;> simp [*]

@[simp] theorem not_error_of_ok (i : Instr) : ¬ ∃ e : DecodeError, (.ok i : Except DecodeError Instr) = .error e :=
  nofun

theorem decodeStatus_error_iff (sub : Nibble) : (∃ e, decodeStatus sub = .error e) ↔ 3 ≤ sub.toNat := by
  unfold decodeStatus
  split
  case h_4 | h_5 => exact iff_of_true ⟨_, rfl⟩ (by grind)
  all_goals exact iff_of_false nofun (by omega)

/-- R66: the words that stand for no instruction. -/
theorem decodeCmd16_error_iff (w : U16) : (∃ e, decodeCmd16 w = .error e) ↔ Undecodable w := by
  have hw := w.isLt
  unfold decodeCmd16 Undecodable
  simp only [toNat_opField]
  split
  case h_10 =>
    simp only [imp_false] at *
    exact iff_of_true ⟨_, rfl⟩ (.inl (by omega))
  all_goals
    simp only [guarded_error_iff, decodeStatus_error_iff, not_error_of_ok, or_false, ← BitVec.toNat_inj,
      toNat_subField, toNat_immField, toNat_immHiField, BitVec.toNat_ofNat, BitVec.ofNat_eq_ofNat]
    omega

end Sys2Proof

namespace Sys2Proof.Machine

open Sys2Proof.Claims

/-- The operands R66 refuses under a configuration, with so many bytes on D. A received command byte row judges the
frame of its own byte and those on D (log entry 7). -/
def OutOfRange (c : Config) (lenD : Nat) : Instr → Prop
  | .bind core => c.numCores ≤ core.toNat
  | .parse _ => rxCap c < lenD
  | .cmdNop _ _ _ | .cmdRead _ _ _ | .cmdWrite _ _ _ | .cmdWrrd _ _ _ => rxCap c < lenD + 1
  | _ => False

/-- Only the operation's own effect can be refused, not the check of HALTED. -/
theorem State.running_refused {s : State} {k : Answer} {r : Refusal} (h : s.running k = .refused r) :
    k = .refused r := by
  unfold State.running at h
  split at h
  · cases h
  · exact h

theorem finish_ne_refused (e : Except Fault State) (r : Refusal) : finish e ≠ .refused r := by
  cases e <;> nofun

/-- A check made before that of HALTED refuses exactly what meets it. -/
theorem checked_refused_iff {p : Prop} [Decidable p] {r : Refusal} {s t : State} :
    (∃ r', (if p then .refused r else s.running (.next t)) = Host.Outcome.refused r') ↔ p := by
  split
  · simp [*]
  · simp only [*, iff_false]
    rintro ⟨r', h⟩
    cases State.running_refused h

theorem judge_refused_iff {F : List Byte} {s : State} {v : Verdict × State} :
    (∃ r, judge F s v = .refused r) ↔ rxCap s.cfg < F.length :=
  checked_refused_iff

theorem exec_byteFeed_ne_refused {i : Instr} (hi : isByteFeed i = true) (s : State) (r : Refusal) :
    exec i s ≠ .refused r := by
  obtain ⟨act, hact⟩ := exec_byteFeed_act hi s.decState
  rw [hact s rfl]
  exact fun h => finish_ne_refused _ r (State.running_refused h)

theorem execBind_refused_iff (core : Nibble) (s : State) :
    (∃ r, execBind core s = .refused r) ↔ s.cfg.numCores ≤ core.toNat := by
  have hflip : execBind core s = if s.cfg.numCores ≤ core.toNat then .refused (.coreOutOfRange core)
      else s.running (.next ((s.bindCore core).reply none)) := by
    simp only [execBind, ← not_lt, ite_not]
  rw [hflip]
  exact checked_refused_iff

theorem execSend_ne_refused (dest : Nibble) (s : State) (r : Refusal) : execSend dest s ≠ .refused r := by
  intro h
  have h := State.running_refused h
  dsimp only at h
  split_ifs at h

theorem execEncode_ne_refused (s : State) (r : Refusal) : execEncode s ≠ .refused r := by
  intro h
  have h := State.running_refused h
  split_ifs at h

/-- R66: what an operation refuses in any state. -/
theorem exec_refused_iff (i : Instr) (s : State) :
    (∃ r, exec i s = .refused r) ↔ OutOfRange s.cfg s.port.data.length i := by
  have never : (∀ r, exec i s ≠ .refused r) → ((∃ r, exec i s = .refused r) ↔ False) :=
    fun h => iff_false_intro fun ⟨r, hr⟩ => h r hr
  cases i with
  | parse req => exact checked_refused_iff
  | bind core => exact execBind_refused_iff core s
  | cmdNop | cmdRead | cmdWrite | cmdWrrd => exact judge_refused_iff
  | send dest => exact never (execSend_ne_refused dest s)
  | encode => exact never (execEncode_ne_refused s)
  | crcStep | crcBlock => exact never fun r h => nomatch State.running_refused h
  | rxStatus st => exact never fun r h => by cases st <;> nomatch State.running_refused h
  | reset => exact never nofun
  | _ => exact never (exec_byteFeed_ne_refused rfl s)

theorem refusedWord_iff (c : Config) (w : U16) (lenD : Nat) :
    RefusedWord c w lenD ↔ Undecodable w ∨
      (w.toNat / 4096 = 8 ∧ c.numCores ≤ w.toNat % 256 % 16) ∨
      (w.toNat / 4096 = 7 ∧ c.maxPayload + 6 < lenD) := by
  simp only [RefusedWord, Undecodable, or_assoc]

/-- R66: a word that decodes is listed by its operands' ranges alone. -/
theorem refusedWord_iff_outOfRange (c : Config) {w : U16} {i : Instr} (lenD : Nat) (h : decodeCmd16 w = .ok i) :
    RefusedWord c w lenD ↔ OutOfRange c lenD i := by
  have hdec : ¬ Undecodable w := by
    rw [← decodeCmd16_error_iff, h]
    exact not_error_of_ok i
  have hword := encodeWord_of_decodeCmd16 c.layout h
  have hcap : rxCap c = c.maxPayload + 6 := by
    simp only [rxCap, pktCap, hdrLen, crcLen]
    omega
  rw [refusedWord_iff, or_iff_right hdec, ← toNat_opField, ← toNat_immLoField]
  cases i <;> cases hword <;> simp [OutOfRange, hcap]

/-! ## A RX_CHUNK line from the queue (R65, R229)

RX_BYTE neither reads nor writes the queue, so that it takes its step alike whatever waits after it. -/

/-- The state with these operations waiting. -/
def State.withInputs (q : List HostOp) (s : State) : State := { s with inputs := q }

theorem State.withInputs_self {s : State} {q : List HostOp} (h : s.inputs = q) : s.withInputs q = s := by
  subst h; rfl

/-- That change made to the state of a judgement. -/
def judgedWithInputs (q : List HostOp) (r : Verdict × State) : Verdict × State := (r.1, r.2.withInputs q)

/-- That change made to the next state of an answer. -/
def answerWithInputs (q : List HostOp) : Answer → Answer
  | .next t => .next (t.withInputs q)
  | .fault f => .fault f
  | .refused r => .refused r

section
variable (q : List HostOp) (s : State)

theorem accept_withInputs (F : List Byte) (c : Nibble) :
    accept F c (s.withInputs q) = judgedWithInputs q (accept F c s) :=
  ite_eq_apply_ite (judgedWithInputs q) rfl rfl

theorem validateAndRoute_withInputs (F : List Byte) (req : Byte) :
    validateAndRoute F req (s.withInputs q) = judgedWithInputs q (validateAndRoute F req s) := by
  refine ite_eq_apply_ite (judgedWithInputs q) rfl ?_
  refine ite_eq_apply_ite (judgedWithInputs q) rfl ?_
  refine ite_eq_apply_ite (judgedWithInputs q) rfl ?_
  refine ite_eq_apply_ite (judgedWithInputs q) rfl ?_
  exact ite_eq_apply_ite (judgedWithInputs q) rfl (accept_withInputs q s F _)

theorem append_withInputs (v : Byte) :
    append v (s.withInputs q) = (append v s).map (State.withInputs q) := by
  by_cases hlt : s.accLen < rxCap s.cfg
  · rw [append_of_room hlt, append_of_room (s := s.withInputs q) hlt]
    rfl
  by_cases hfull : s.accLen = rxCap s.cfg
  · rw [append_of_full hfull, append_of_full (s := s.withInputs q) hfull]
    rfl
  · simp [append, State.memWrite, hlt, hfull, State.withInputs, Except.map]

theorem emitFrame_withInputs :
    emitFrame (s.withInputs q) = (emitFrame s).map (State.withInputs q) := by
  refine ite_eq_apply_ite (Except.map (State.withInputs q)) ?_ rfl
  have hread : (s.withInputs q).memReadFrom 0 s.accLen = s.memReadFrom 0 s.accLen :=
    State.memReadFrom_congr (s := s) (t := s.withInputs q) rfl rfl rfl 0 s.accLen
  simp only [show (s.withInputs q).accLen = s.accLen from rfl, hread]
  cases s.memReadFrom 0 s.accLen with
  | error f => rfl
  | ok F =>
    exact congrArg (fun r => Except.ok r.2)
      (validateAndRoute_withInputs q ((s.withAccLen 0).log (.rxFrame F)) F s.port.req)

theorem DecoderAct.run_withInputs (act : DecoderAct) :
    act.run (s.withInputs q) = (act.run s).map (State.withInputs q) := by
  cases act with
  | goTo d => rfl
  | emit => exact emitFrame_withInputs q (s.withDec .inPkt)
  | append v => exact append_withInputs q s v
  | resync e => rfl

theorem finish_withInputs (e : Except Fault State) :
    finish (e.map (State.withInputs q)) = answerWithInputs q (finish e) := by
  cases e <;> rfl

theorem exec_byteFeed_withInputs {i : Instr} (hi : isByteFeed i = true) :
    exec i (s.withInputs q) = answerWithInputs q (exec i s) := by
  obtain ⟨act, hact⟩ := exec_byteFeed_act hi s.decState
  rw [hact s rfl, hact (s.withInputs q) rfl, act.run_withInputs, finish_withInputs]
  exact ite_eq_apply_ite (answerWithInputs q) rfl rfl

end

/-- The operations of a RX_CHUNK line of these bytes, each with its draw beside the operands on the port. -/
def chunkOps (port : Operands) (rs : List Received) : List HostOp :=
  rs.map fun r => { word := .cmd16 (word16 0x5 0 r.byte), operands := { port with req := r.req } }

/-- R65: a RX_CHUNK line issues one RX_BYTE for each of its bytes. -/
theorem rxChunk_line_ops (L : CmdLayout) (port : Operands) (rs : List Received) :
    Line.ops L (fun k => { port with req := (rs.map Received.req).getD k 0 }) (.rxChunk (rs.map Received.byte)) =
      chunkOps port rs := by
  refine List.ext_getElem (by simp [Line.ops, Line.instrs, chunkOps]) fun k hk hk' => ?_
  have hlt : k < rs.length := by simpa [chunkOps] using hk'
  simp [Line.ops, Line.instrs, Line.operands, chunkOps, encodeWord, hlt]

theorem step_rxByte {s : State} {b : Byte} {operands : Operands} {q : List HostOp}
    (h : s.inputs = { word := .cmd16 (word16 0x5 0 b), operands := operands } :: q) :
    step s = exec (.rxByte b) (s.takeUp { word := .cmd16 (word16 0x5 0 b), operands := operands } q) := by
  have hdec : decodeCmd16 (word16 0x5 0 b) = .ok (.rxByte b) := decodeCmd16_of_encodeWord (L := s.cfg.layout) rfl
  simp only [step, h, decode, hdec]

/-- R229: issued at the head of the queue and stepped once a byte, the operations receive the bytes in turn. -/
theorem run_chunkOps (rs : List Received) (s : State) (rest : List HostOp)
    (h : s.inputs = chunkOps s.port rs ++ rest) : run rs.length s = rxChunk rs (s.withInputs rest) := by
  induction rs generalizing s with
  | nil => rw [State.withInputs_self (q := rest) h]; rfl
  | cons r rs ih =>
    have hstep : step s = answerWithInputs (chunkOps s.port rs ++ rest)
        (exec (.rxByte r.byte) ((s.withInputs rest).withReq r.req)) := by
      rw [step_rxByte h]
      exact exec_byteFeed_withInputs _ ((s.withInputs rest).withReq r.req) rfl
    rw [List.length_cons, run, rxChunk, hstep]
    cases hn : exec (.rxByte r.byte) ((s.withInputs rest).withReq r.req) with
    | next t =>
      obtain ⟨-, -, hinputs, hport⟩ := outputsAreOnlyAddedTo _ _ _ hn
      have hops : chunkOps s.port rs = chunkOps t.port rs := by rw [hport]; rfl
      calc run rs.length (t.withInputs (chunkOps s.port rs ++ rest))
          = rxChunk rs (t.withInputs rest) := ih (t.withInputs _) (congrArg (· ++ rest) hops)
        _ = rxChunk rs t := by rw [State.withInputs_self (q := rest) hinputs]
    | fault f => rfl
    | refused e => rfl

/-! ## The TX wire (R82, R111, R116, R120) -/

/-- The byte of an `out_tx` output. -/
def Output.tx? : Output → Option Byte
  | .tx b => some b
  | _ => none

@[simp] theorem Output.tx?_tx (b : Byte) : (Output.tx b).tx? = some b := rfl
@[simp] theorem Output.tx?_dispatch (c : Nibble) (P : List Byte) (n : Nat) : (Output.dispatch c P n).tx? = none := rfl
@[simp] theorem Output.tx?_event (e : Event) : (Output.event e).tx? = none := rfl

/-- An outcome of a frame is no byte on the wire. -/
theorem Output.tx?_of_isOutcome {o : Output} (h : o.isOutcome = true) : o.tx? = none := by
  cases o with
  | tx b => cases h
  | dispatch | event => rfl

theorem State.txWire_eq (s : State) : s.txWire = s.outputs.filterMap Output.tx? := by
  refine congrArg (fun f => s.outputs.filterMap f) (funext fun o => ?_)
  cases o <;> rfl

theorem State.txWire_emit (s : State) (os : List Output) :
    (s.emit os).txWire = s.txWire ++ os.filterMap Output.tx? := by
  simp [txWire_eq]

@[simp] theorem State.txWire_reply (s : State) (r : Option Result) : (s.reply r).txWire = s.txWire := rfl

@[simp] theorem State.txWire_log (s : State) (e : Event) : (s.log e).txWire = s.txWire := by
  simp [State.log, txWire_emit]

@[simp] theorem State.txWire_deliver (s : State) (c : Nibble) (P : List Byte) : (s.deliver c P).txWire = s.txWire := by
  simp [State.deliver, txWire_emit]

@[simp] theorem State.txWire_outTx (s : State) (bytes : List Byte) :
    (s.outTx bytes).txWire = s.txWire ++ bytes := by
  have hsome : Output.tx? ∘ Output.tx = some := rfl
  rw [outTx, txWire_emit, List.filterMap_map, hsome, List.filterMap_some]

/-- R120: SEND puts a first part of the wire frame on the wire, as much as the link accepted. -/
theorem writeOutcome_wire (wr : WriteAnswer) (W F : List Byte) (s : State) :
    ∃ status n, (writeOutcome wr W F s).results = s.results ++ [some (.sent status F)] ∧
      (writeOutcome wr W F s).txWire = s.txWire ++ W.take n := by
  cases wr with
  | wrote n =>
    by_cases hall : n = W.length
    · exact ⟨0, n, by simp [writeOutcome, hall], by simp [writeOutcome, hall]⟩
    · exact ⟨-1, n, by simp [writeOutcome, hall], by simp [writeOutcome, hall]⟩
  | wouldBlock => exact ⟨-1, 0, rfl, by simp [writeOutcome]⟩
  | error => exact ⟨-1, 0, rfl, by simp [writeOutcome]⟩

/-- R119: a SEND that fails a check puts nothing on the wire; one that passes them frames the normalised packet. -/
theorem execSend_wire {dest : Nibble} {s t : State} (h : execSend dest s = .next t) :
    t.txWire = s.txWire ∨
      4 ≤ s.port.data.length ∧
        ∃ F wr, F = frameOf (normalise s.port.data dest) ∧ t = writeOutcome wr (wireOf F) F s := by
  unfold execSend at h
  have h := (State.running_next h).2
  dsimp only at h
  split_ifs at h with hshort hopen hlong <;> cases h
  · exact .inl (by simp)
  · exact .inl (by simp)
  · exact .inl (by simp)
  · exact .inr ⟨not_lt.mp hshort, _, _, rfl, rfl⟩

theorem sentinel_or_low_nibble (d : Byte) : (0xF0#8 ||| (d &&& 0x0F#8)).toNat / 16 = 0xF := by
  revert d
  decide

theorem sentinel_append_toNat (dest : Nibble) : (0xE#4 ++ dest : Byte).toNat = 0xE0 + dest.toNat := by
  revert dest
  decide

/-- R116: the frame of a normalised packet carries both sentinels. -/
theorem frameOf_normalise_sentinels {D : List Byte} (dest : Nibble) (h : 2 ≤ D.length) :
    (byteAt (frameOf (normalise D dest)) 0).toNat / 16 = 0xF ∧
      (byteAt (frameOf (normalise D dest)) 1).toNat = 0xE0 + dest.toNat := by
  match D, h with
  | d0 :: _ :: _, _ => exact ⟨sentinel_or_low_nibble d0, sentinel_append_toNat dest⟩

/-! Every other operation leaves the wire as it is. -/

theorem accept_txWire (F : List Byte) (c : Nibble) (s : State) : (accept F c s).2.txWire = s.txWire := by
  unfold accept
  split <;> simp

theorem reject_txWire (code : RejectCode) (e : Event) (s : State) : (reject code e s).2.txWire = s.txWire :=
  State.txWire_log s e

theorem withValidCore_txWire {F : List Byte} {s : State} {k : Nibble → Verdict × State}
    (hk : ∀ c, (k c).2.txWire = s.txWire) : (withValidCore F s k).2.txWire = s.txWire := by
  unfold withValidCore
  dsimp only
  split
  · exact hk _
  · exact reject_txWire ..

theorem judge_txWire {F : List Byte} {s t : State} {r : Verdict × State} (h : judge F s r = .next t)
    (hr : r.2.txWire = s.txWire) : t.txWire = s.txWire := by
  unfold judge at h
  split at h
  · cases h
  · cases (State.running_next h).2
    unfold integrityReject
    split_ifs
    · exact State.txWire_log s _
    · exact State.txWire_log s _
    · exact hr

theorem validateAndRoute_txWire (F : List Byte) (req : Byte) (s : State) :
    (validateAndRoute F req s).2.txWire = s.txWire := by
  obtain ⟨v, o, h, ho⟩ := validateAndRoute_cases F req s
  have hno : o.tx? = none := by
    rcases ho with ⟨c, e, -, rfl, -⟩ | ⟨c, -, rfl, -⟩ | ⟨c, -, rfl, -⟩ <;> rfl
  simp [h, State.txWire_emit, hno]

theorem DecoderStep.txWire_eq {b : Byte} {s u : State} (h : DecoderStep b s u) : u.txWire = s.txWire := by
  cases h with
  | frame _ _ _ F o _ ho ht =>
    subst ht
    simp [State.txWire_eq, Output.tx?_of_isOutcome ho]
  | violation e _ ht => subst ht; exact State.txWire_log s e
  | discard _ _ ht => subst ht; rfl
  | emptyFrame _ _ _ ht => subst ht; rfl
  | escape _ _ ht => subst ht; rfl
  | store _ _ ht => subst ht; rfl

theorem byteFeed_txWire {i : Instr} {s t : State} (hi : isByteFeed i = true) (h : exec i s = .next t) :
    t.txWire = s.txWire := by
  cases exec_effect h with
  | decoder _ _ _ hu ht => subst ht; exact hu.txWire_eq
  | answer hno => simp [hi] at hno
  | bind _ hbind => subst hbind; cases hi
  | halt _ hhalt => subst hhalt; cases hi
  | reset hreset => subst hreset; cases hi

/-- R82: an operation that is no SEND puts no byte on the wire. -/
theorem exec_txWire {i : Instr} {s t : State} (hi : ∀ dest, i ≠ .send dest) (h : exec i s = .next t) :
    t.txWire = s.txWire := by
  cases i with
  | crcStep | crcBlock => cases (State.running_next h).2; rfl
  | encode => obtain ⟨r, rfl⟩ := execEncode_next h; rfl
  | send dest => exact absurd rfl (hi dest)
  | rxStatus st =>
    cases st <;> cases (State.running_next h).2
    · rfl
    · exact State.txWire_log s _
    · exact State.txWire_log s _
  | parse req =>
    unfold exec execParse at h
    dsimp only at h
    split at h
    · cases h
    · cases (State.running_next h).2
      exact validateAndRoute_txWire ..
  | bind c =>
    unfold exec execBind at h
    dsimp only at h
    split at h
    · cases (State.running_next h).2; rfl
    · cases h
  | reset => cases h; rfl
  | cmdNop => exact judge_txWire h (State.txWire_log s _)
  | cmdRead =>
    refine judge_txWire h (withValidCore_txWire fun c => ?_)
    split
    · exact accept_txWire ..
    · exact reject_txWire ..
  | cmdWrite => exact judge_txWire h (withValidCore_txWire fun c => accept_txWire ..)
  | cmdWrrd =>
    refine judge_txWire h ?_
    split
    · exact withValidCore_txWire fun c => accept_txWire ..
    · exact State.txWire_log s _
  | _ => exact byteFeed_txWire rfl h

end Sys2Proof.Machine

namespace Sys2Proof.Claims

open Sys2Proof.Machine

/-- Settles O3, format by format: the fields a word is made of are those it is decoded by. -/
theorem decodeEncodeRoundTrip : Obligations.DecodeEncodeRoundTrip := by
  intro c i hc hi
  obtain ⟨-, -, hlayout⟩ := hc
  cases h : encodeWord c.layout i with
  | cmd16 w => exact decodeCmd16_of_encodeWord h
  | pktCmd8 b => exact congrArg Except.ok (decodePktCmd8_of_encodeWord hlayout h)
  | linkByte8 b => exact congrArg Except.ok (decodeLinkByte8_of_encodeWord hi h)

/-- Settles O4, format by format: the fields a word is decoded by make it up, none of its bits left over. -/
theorem encodeDecodeRoundTrip : Obligations.EncodeDecodeRoundTrip := by
  intro c w i hc h
  obtain ⟨-, -, hlayout⟩ := hc
  cases w with
  | cmd16 w => exact encodeWord_of_decodeCmd16 c.layout h
  | pktCmd8 b => cases h; exact encodeWord_decodePktCmd8 hlayout b
  | linkByte8 b => cases h; exact encodeWord_decodeLinkByte8 c.layout b

/-- Settles O2: a word that does not decode is listed by its own bits, one that decodes by the range of its operands. -/
theorem refusedWordsAreExactlyTheListedOnes : Obligations.RefusedWordsAreExactlyTheListedOnes := by
  intro s w operands rest hin
  cases h : decodeCmd16 w with
  | error e =>
    have hstep : step s = .refused (.undecodable e) := by simp [step, hin, decode, h]
    have hword : Undecodable w := (decodeCmd16_error_iff w).mp ⟨e, h⟩
    simp [hstep, refusedWord_iff, hword]
  | ok i =>
    have hstep : step s = exec i (s.takeUp { word := .cmd16 w, operands := operands } rest) := by
      simp [step, hin, decode, h]
    rw [hstep, exec_refused_iff, refusedWord_iff_outOfRange s.cfg _ h]
    rfl

/-- Settles O16: every operation but SEND leaves the TX wire as it is, and SEND adds to it in `write_outcome` only. -/
theorem onlySendWritesTheWire : Obligations.OnlySendWritesTheWire := by
  intro i s t o h ho htx
  have hwire : t.txWire ≠ s.txWire := by
    intro heq
    obtain ⟨b, hb⟩ := htx
    have hnone : ∀ e ∈ o, e.tx? = none := by simpa [State.txWire_eq, ho] using heq
    cases hnone _ hb
  by_cases hsend : ∃ dest, i = .send dest
  · obtain ⟨dest, rfl⟩ := hsend
    obtain hsame | ⟨hlen, F, wr, hF, rfl⟩ := execSend_wire h
    · exact absurd hsame hwire
    · obtain ⟨status, n, hresults, htake⟩ := writeOutcome_wire wr (wireOf F) F s
      obtain ⟨hcmd, hcore⟩ := frameOf_normalise_sentinels (D := s.port.data) dest (by omega)
      rw [← hF] at hcmd hcore
      exact ⟨dest, status, F, rfl, hresults, hcmd, hcore, n, htake⟩
  · exact absurd (exec_txWire (not_exists.mp hsend) h) hwire

/-- Settles O60, by induction on the bytes: RX_BYTE takes its step alike whatever waits after it. -/
theorem chunkLineRunsAsItsBytes : Obligations.ChunkLineRunsAsItsBytes := by
  intro rs s rest h
  rw [rxChunk_line_ops] at h
  exact run_chunkOps rs s rest h

/-- Settles O5: the decoder evaluates to each instruction. -/
theorem wordsDecodeAsTheSpecWritesThem : Obligations.WordsDecodeAsTheSpecWritesThem :=
  ⟨rfl, rfl, rfl, rfl, rfl, rfl, rfl, rfl, rfl, rfl, rfl, rfl⟩

end Sys2Proof.Claims

/-! The statements of 40_crc.md: what CRC_STEP and CRC_BLOCK return, the CRC as the register of its polynomial and
as a linear map, and which two bytes after a string bring its CRC to zero. -/

namespace Sys2Proof.Machine

open Sys2Proof.Claims

/-- A block that is not halted completes an operation that only returns a result. -/
theorem State.running_reply {s : State} (hs : s.halted = false) (r : Option Result) :
    s.running (.next (s.reply r)) = .next (answers s [] r) := by
  rw [State.running_of_not_halted s _ hs, reply_eq_answers]

/-! ## The byte step (R100) -/

theorem highByte_eq_setWidth (crc : U16) : crc.extractLsb' 8 8 = (crc >>> 8).setWidth 8 := rfl

/-- The byte meets the high byte of the CRC, and the low byte moves up: the byte step as a table look-up. -/
theorem crcStep_eq (crc : U16) (b : Byte) :
    crcStep crc b = (crc <<< 8) ^^^ crcStep 0 (crc.extractLsb' 8 8 ^^^ b) := by
  simp [crcStep, highByte_eq_setWidth, BitVec.xor_assoc]

/-- A byte equal to the high byte of the CRC cancels it. -/
@[simp] theorem crcStep_highByte (crc : U16) : crcStep crc (crc.extractLsb' 8 8) = crc <<< 8 := by
  rw [crcStep_eq, BitVec.xor_self]
  exact BitVec.xor_zero

/-- R100: the byte step computes the formula over mathematical values. -/
theorem crcStep_toNat (crc : U16) (b : Byte) : (crcStep crc b).toNat = crcStepFormula crc.toNat b.toNat := by
  have hbyte : (crc.toNat >>> 8 ^^^ b.toNat) &&& 0xFF = ((crc >>> 8).setWidth 8 ^^^ b).toNat := by
    rw [show 0xFF = 2 ^ 8 - 1 from rfl, Nat.and_two_pow_sub_one_eq_mod, Nat.xor_mod_two_pow]
    simp [Nat.mod_eq_of_lt b.isLt]
  have hfold (x : Byte) : x.toNat ^^^ x.toNat >>> 4 = (x ^^^ x >>> 4).toNat := by simp
  have hword (x : Byte) : x.toNat = (x.setWidth 16).toNat := (BitVec.toNat_setWidth_of_le (by decide)).symm
  rw [crcStepFormula, hbyte, hfold, hword]
  simp only [crcStep, BitVec.toNat_xor, BitVec.toNat_shiftLeft, Nat.xor_mod_two_pow, Nat.mod_eq_of_lt (BitVec.isLt _)]

/-- R101: the CRC of a string is the formula folded over its bytes. -/
theorem crc16_toNat (s : List Byte) : (crc16 s).toNat = (s.map BitVec.toNat).foldl crcStepFormula 0 := by
  rw [List.foldl_map]
  exact (List.foldl_hom BitVec.toNat fun crc b => (crcStep_toNat crc b).symm).symm

/-! ## Linearity (R105) -/

/-- Shifts, width changes and exclusive-ors are linear each, and the byte step is made of them. -/
theorem crcStep_xor (a a' : U16) (b b' : Byte) :
    crcStep (a ^^^ a') (b ^^^ b') = crcStep a b ^^^ crcStep a' b' := by
  dsimp only [crcStep]
  simp only [BitVec.setWidth_xor, BitVec.ushiftRight_xor_distrib, BitVec.shiftLeft_xor_distrib]
  grind

theorem foldl_crcStep_xor (a a' : U16) (x y : List Byte) (h : x.length = y.length) :
    (List.zipWith (· ^^^ ·) x y).foldl crcStep (a ^^^ a') = x.foldl crcStep a ^^^ y.foldl crcStep a' := by
  induction x generalizing a a' y with
  | nil => cases y with
    | nil => rfl
    | cons => cases h
  | cons u x ih => cases y with
    | nil => cases h
    | cons v y => simp only [List.zipWith_cons_cons, List.foldl_cons, crcStep_xor, ih _ _ y (Nat.succ.inj h)]

/-! ## The register of the polynomial (G1) -/

/-- The top bit of an exclusive-or is that of the two, so the polynomial is added twice, once or never. -/
theorem registerShift_xor (x y : U16) : registerShift (x ^^^ y) = registerShift x ^^^ registerShift y := by
  unfold registerShift
  rw [BitVec.msb_xor, BitVec.shiftLeft_xor_distrib]
  cases x.msb <;> cases y.msb <;> simp <;> grind

theorem iterate_registerShift_xor (n : Nat) (x y : U16) :
    registerShift^[n] (x ^^^ y) = registerShift^[n] x ^^^ registerShift^[n] y := by
  induction n generalizing x y with
  | zero => rfl
  | succ n ih => simp only [Function.iterate_succ_apply, registerShift_xor, ih]

/-- Eight shifts of a register whose low byte is clear are the byte step's table. -/
theorem iterate_registerShift_high (y : Byte) : registerShift^[8] (y.setWidth 16 <<< 8) = crcStep 0 y := by
  revert y; decide

/-- Eight shifts of a register whose high byte is clear only move the low byte up. -/
theorem iterate_registerShift_low (y : Byte) : registerShift^[8] (y.setWidth 16) = y.setWidth 16 <<< 8 := by
  revert y; decide

theorem lowByte_shiftLeft (crc : U16) : (crc.extractLsb' 0 8).setWidth 16 <<< 8 = crc <<< 8 := by
  ext i
  grind

/-- A CRC value is its high byte and its low byte, each in its place. -/
theorem eq_highByte_xor_lowByte (crc : U16) :
    crc = (crc.extractLsb' 8 8).setWidth 16 <<< 8 ^^^ (crc.extractLsb' 0 8).setWidth 16 := by
  ext i
  grind

theorem crcStep_eq_registerByte (crc : U16) (b : Byte) : crcStep crc b = registerByte crc b := by
  have hfed : crc ^^^ (b.setWidth 16 <<< 8) =
      (crc.extractLsb' 8 8 ^^^ b).setWidth 16 <<< 8 ^^^ (crc.extractLsb' 0 8).setWidth 16 := by
    conv => lhs; rw [eq_highByte_xor_lowByte crc]
    rw [BitVec.setWidth_xor, BitVec.shiftLeft_xor_distrib]
    grind
  rw [registerByte, hfed, iterate_registerShift_xor, iterate_registerShift_high, iterate_registerShift_low,
    lowByte_shiftLeft, crcStep_eq, BitVec.xor_comm]

/-! ## The residue (R104) -/

/-- No byte but 0 meets a clear CRC without changing its low byte. -/
theorem eq_zero_of_crcStep_zero_shiftLeft {y : Byte} : crcStep 0 y <<< 8 = 0 → y = 0 := by
  revert y; decide

/-- The low byte of the CRC is clear after a byte exactly when that byte cancels the high byte. -/
theorem crcStep_shiftLeft_eq_zero_iff (crc : U16) (b : Byte) :
    crcStep crc b <<< 8 = 0 ↔ b = crc.extractLsb' 8 8 := by
  have hout (x : U16) : x <<< 8 <<< 8 = 0 := by
    rw [← BitVec.shiftLeft_add]
    exact BitVec.shiftLeft_eq_zero (by decide)
  constructor
  · intro h
    rw [crcStep_eq, BitVec.shiftLeft_xor_distrib, hout, zero_xor] at h
    exact (BitVec.xor_eq_zero_iff.mp (eq_zero_of_crcStep_zero_shiftLeft h)).symm
  · rintro rfl
    rw [crcStep_highByte, hout]

theorem crcStep_eq_zero_iff (crc : U16) (b : Byte) :
    crcStep crc b = 0 ↔ b = crc.extractLsb' 8 8 ∧ crc <<< 8 = 0 := by
  constructor
  · intro h
    have hb : b = crc.extractLsb' 8 8 := (crcStep_shiftLeft_eq_zero_iff crc b).mp (by rw [h]; rfl)
    exact ⟨hb, by rwa [hb, crcStep_highByte] at h⟩
  · rintro ⟨rfl, h⟩
    rwa [crcStep_highByte]

/-- Two bytes bring a CRC to zero exactly when they are its own, the high byte first. -/
theorem crcStep_crcStep_eq_zero_iff (crc : U16) (a b : Byte) :
    crcStep (crcStep crc a) b = 0 ↔ a = crc.extractLsb' 8 8 ∧ b = crc.extractLsb' 0 8 := by
  have hlow : (crc <<< 8).extractLsb' 8 8 = crc.extractLsb' 0 8 := by
    ext i
    grind
  rw [crcStep_eq_zero_iff, crcStep_shiftLeft_eq_zero_iff, and_comm]
  refine and_congr_right fun ha => ?_
  rw [ha, crcStep_highByte, hlow]

theorem crc16_append_pair_eq_zero_iff (P : List Byte) (a b : Byte) :
    crc16 (P ++ [a, b]) = 0 ↔ [a, b] = bigEndian (crc16 P) := by
  simpa [crc16, bigEndian] using crcStep_crcStep_eq_zero_iff (crc16 P) a b

theorem crc16_frameOf (P : List Byte) : crc16 (frameOf P) = 0 :=
  (crc16_append_pair_eq_zero_iff P _ _).mpr rfl

/-- A string of CRC zero is the frame of what stands before its last two bytes. -/
theorem eq_frameOf_stripCrc {F : List Byte} (hlen : 2 ≤ F.length) (h : crc16 F = 0) : F = frameOf (stripCrc F) := by
  have hlast : (F.drop (F.length - crcLen)).length = 2 := by
    rw [List.length_drop, crcLen]; omega
  obtain ⟨a, b, hab⟩ := List.length_eq_two.mp hlast
  have hF : F = stripCrc F ++ [a, b] := by rw [← hab, stripCrc, List.take_append_drop]
  have htrailer : [a, b] = bigEndian (crc16 (stripCrc F)) :=
    (crc16_append_pair_eq_zero_iff _ a b).mp (hF ▸ h)
  rwa [htrailer] at hF

/-! ## What PARSE dispatches (R161, R162, R168) -/

theorem validateAndRoute_of_short {F : List Byte} (h : F.length < minFrame) (req : Byte) (s : State) :
    validateAndRoute F req s = reject .short (.rejShort F.length F) s := by
  simp [validateAndRoute, h]

theorem validateAndRoute_of_badCrc {F : List Byte} (hlen : minFrame ≤ F.length) (h : crc16 F ≠ 0) (req : Byte)
    (s : State) : validateAndRoute F req s = reject .crc (.rejCrc (crc16 F) F) s := by
  rw [validateAndRoute, if_neg (not_lt.mpr hlen), if_pos h]

theorem reject_outputs (code : RejectCode) (e : Event) (s : State) :
    (reject code e s).2.outputs = s.outputs ++ [.event e] := rfl

/-- A frame the validator dispatches is whole, and has the packet before its CRC. -/
theorem validateAndRoute_dispatch {F P : List Byte} {req : Byte} {s : State} {c : Nibble} {n : Nat}
    (h : (validateAndRoute F req s).2.outputs = s.outputs ++ [.dispatch c P n]) :
    minFrame ≤ F.length ∧ crc16 F = 0 ∧ P = stripCrc F ∧ n = P.length := by
  have hlen : minFrame ≤ F.length := by
    by_contra hshort
    simp [validateAndRoute_of_short (not_le.mp hshort), reject_outputs] at h
  have hcrc : crc16 F = 0 := by
    by_contra hbad
    simp [validateAndRoute_of_badCrc hlen hbad, reject_outputs] at h
  obtain ⟨v, o, heq, ho⟩ := validateAndRoute_cases F req s
  have hout : o = .dispatch c P n := by simpa [heq] using h
  subst hout
  rcases ho with ⟨_, _, _, ho, _⟩ | ⟨_, _, ho, _⟩ | ⟨_, _, ho, _⟩ <;> cases ho
  exact ⟨hlen, hcrc, rfl, rfl⟩

/-- R170: PARSE, where it completes, judges the frame on D. -/
theorem execParse_next {req : Byte} {s t : State} (h : execParse req s = .next t) :
    t = replyVerdict (validateAndRoute s.port.data req s) := by
  unfold execParse at h
  split at h
  · cases h
  · cases (State.running_next h).2
    rfl

end Sys2Proof.Machine

namespace Sys2Proof.Claims

open Sys2Proof.Machine

/-- Settles O6: the answer is by definition, and the byte step is the formula. -/
theorem crcStepReturnsTheByteStep : Obligations.CrcStepReturnsTheByteStep := by
  intro b s hs
  exact ⟨crcStep s.port.a b, State.running_reply hs _, crcStep_toNat s.port.a b⟩

/-- Settles O7: the formula commutes with the byte step along the string. -/
theorem crcBlockReturnsTheCrcOfD : Obligations.CrcBlockReturnsTheCrcOfD := by
  intro s hs
  exact ⟨crc16 s.port.data, State.running_reply hs _, crc16_toNat s.port.data⟩

/-- Settles O8: eight shifts are linear, so the high byte and the low byte of the register go their own ways. -/
theorem crcStepIsThePolynomialRegister : Obligations.CrcStepIsThePolynomialRegister :=
  crcStep_eq_registerByte

/-- Settles O9: each of the two bytes cancels the high byte that the CRC then has. -/
theorem crcResidueIsZero : Obligations.CrcResidueIsZero :=
  crc16_frameOf

/-- Settles O10, over strings by induction on both at once. -/
theorem crcIsLinear : Obligations.CrcIsLinear :=
  ⟨crcStep_xor, fun x y h => foldl_crcStep_xor crcInit crcInit x y h⟩

/-- Settles O40: a frame of CRC zero ends in the CRC of what stands before it, and PARSE dispatches no other. -/
theorem dispatchedPacketCarriedItsCrc : Obligations.DispatchedPacketCarriedItsCrc := by
  intro req s t c P n h hout
  rw [execParse_next h] at hout
  obtain ⟨hlen, hcrc, rfl, hn⟩ := validateAndRoute_dispatch hout
  exact ⟨eq_frameOf_stripCrc (le_trans (by decide) hlen) hcrc, hn⟩

end Sys2Proof.Claims

/-! The statements of 41_encoder.md: what ENCODE returns and how long its wire frame is, SEND's checks in their order,
and what SEND puts out for each answer of the link. -/

namespace Sys2Proof.Machine

open Sys2Proof.Claims

/-! ## The lengths of the encoder's parts (R110, R111) -/

theorem encMaxN_eq (c : Config) : encMaxN c = c.maxPayload + 4 := by
  simp only [encMaxN, pktCap, hdrLen, crcLen]
  omega

@[simp] theorem length_frameOf (P : List Byte) : (frameOf P).length = P.length + 2 := by
  simp [frameOf, bigEndian]

theorem length_stuff (x : Byte) : (stuff x).length = if (x == byteEND || x == byteESC) = true then 2 else 1 := by
  by_cases hend : x = byteEND
  · subst hend; rfl
  · by_cases hesc : x = byteESC
    · subst hesc; rfl
    · simp [stuff, hend, hesc]

/-- Stuffing writes one byte more for each byte that is escaped. -/
theorem length_flatMap_stuff (F : List Byte) :
    (F.flatMap stuff).length = F.length + F.countP (fun x => x == byteEND || x == byteESC) := by
  induction F with
  | nil => rfl
  | cons x F ih =>
    rw [List.flatMap_cons, List.length_append, ih, length_stuff, List.countP_cons, List.length_cons]
    split <;> omega

theorem length_wireOf (F : List Byte) :
    (wireOf F).length = F.length + F.countP (fun x => x == byteEND || x == byteESC) + 2 := by
  rw [wireOf, List.length_append, List.length_append, length_flatMap_stuff, List.length_singleton]
  omega

/-! ## ENCODE (R112, R113) -/

theorem execEncode_of_tooLong {s : State} (hs : s.halted = false) (h : s.cfg.maxPayload + 4 < s.port.data.length) :
    execEncode s = .next (answers s [] (some (.encoded 0 [] s.port.data))) := by
  rw [← encMaxN_eq] at h
  rw [execEncode, if_pos h]
  exact State.running_reply hs _

theorem execEncode_of_fits {s : State} (hs : s.halted = false) (h : s.port.data.length ≤ s.cfg.maxPayload + 4) :
    execEncode s = .next (answers s [] (some (.encoded (wireOf (frameOf s.port.data)).length
      (wireOf (frameOf s.port.data)) (frameOf s.port.data)))) := by
  rw [← encMaxN_eq] at h
  rw [execEncode, if_neg (not_lt.mpr h)]
  exact State.running_reply hs _

/-! ## The normalised packet (R116) -/

theorem sentinel_append_eq_or (dest : Nibble) : (0xE#4 ++ dest : Byte) = 0xE0#8 ||| dest.setWidth 8 := by
  revert dest
  decide

theorem normalised_normalise {D : List Byte} (dest : Nibble) (h : 2 ≤ D.length) :
    Normalised D dest (normalise D dest) := by
  match D, h with
  | d0 :: d1 :: rest, _ =>
    refine ⟨rfl, rfl, sentinel_append_eq_or dest, fun i hi => ?_⟩
    obtain ⟨j, rfl⟩ := Nat.exists_eq_add_of_le' hi
    rfl

theorem eq_of_byteAt {P Q : List Byte} (hlen : P.length = Q.length) (h : ∀ i, byteAt P i = byteAt Q i) : P = Q := by
  refine List.ext_getElem hlen fun i hP hQ => ?_
  simpa only [byteAt, List.getD_eq_getElem _ _ hP, List.getD_eq_getElem _ _ hQ] using h i

/-- R116 determines the normalised packet: it is the one `normalise` computes. -/
theorem normalise_eq_of_normalised {D P : List Byte} {dest : Nibble} (hlen : 2 ≤ D.length) (h : Normalised D dest P) :
    normalise D dest = P := by
  obtain ⟨hP, hP0, hP1, hPrest⟩ := h
  obtain ⟨hN, hN0, hN1, hNrest⟩ := normalised_normalise dest hlen
  refine eq_of_byteAt (hN.trans hP.symm) fun i => ?_
  match i with
  | 0 => exact hN0.trans hP0.symm
  | 1 => exact hN1.trans hP1.symm
  | j + 2 => exact (hNrest _ (by omega)).trans (hPrest _ (by omega)).symm

/-! ## SEND (R115, R118, R119) -/

theorem writeOutcome_all (W F : List Byte) (s : State) :
    writeOutcome (.wrote W.length) W F s = answers s (W.map .tx) (some (.sent 0 F)) := by
  simp [writeOutcome, State.outTx, State.emit, State.reply, answers]

theorem writeOutcome_short {W : List Byte} {n : Nat} (h : n < W.length) (F : List Byte) (s : State) :
    writeOutcome (.wrote n) W F s =
      answers s ((W.take n).map .tx ++ [.event (.txShort n)]) (some (.sent (-1) F)) := by
  simp [writeOutcome, h.ne, State.outTx, State.log, State.emit, State.reply, answers]

theorem within_wrote {n cnt : Nat} (h : n ≤ cnt) : (WriteAnswer.wrote n).within cnt = .wrote n :=
  congrArg WriteAnswer.wrote (min_eq_left h)

section
variable {dest : Nibble} {s : State} {P : List Byte}

theorem execSend_of_tooShort (hs : s.halted = false) (h : s.port.data.length < 4) :
    execSend dest s = .next (answers s [.event (.txTooShort s.port.data.length)] (some (.sent (-1) s.port.data))) := by
  rw [execSend, State.running_of_not_halted _ _ hs, if_pos h, log_reply_eq_answers]

/-- A packet long enough to send is normalised, then meets the other two checks. -/
theorem execSend_of_normalised (hs : s.halted = false) (hlen : 4 ≤ s.port.data.length)
    (hP : Normalised s.port.data dest P) :
    execSend dest s =
      if s.port.linkOpen = false then .next (answers s [.event .txNotOpen] (some (.sent (-1) P)))
      else if s.cfg.maxPayload + 4 < P.length then
        .next (answers s [.event (.txTooLong P.length)] (some (.sent (-1) P)))
      else
        .next (writeOutcome (s.port.write.within (wireOf (frameOf P)).length) (wireOf (frameOf P)) (frameOf P) s) := by
  have hnorm : normalise s.port.data dest = P := normalise_eq_of_normalised (by omega) hP
  rw [execSend, State.running_of_not_halted _ _ hs, if_neg (not_lt.mpr hlen), hnorm, encMaxN_eq]
  rfl

theorem execSend_of_passes (hs : s.halted = false) (hopen : s.port.linkOpen = true) (hlen : 4 ≤ s.port.data.length)
    (hfits : s.port.data.length ≤ s.cfg.maxPayload + 4) (hP : Normalised s.port.data dest P) :
    execSend dest s =
      .next (writeOutcome (s.port.write.within (wireOf (frameOf P)).length) (wireOf (frameOf P)) (frameOf P) s) := by
  have hlenP : P.length = s.port.data.length := hP.1
  rw [execSend_of_normalised hs hlen hP, if_neg (by simp [hopen]), if_neg (by omega)]

end

end Sys2Proof.Machine

namespace Sys2Proof.Claims

open Sys2Proof.Machine

/-- Settles O11: the four steps are the encoder's own functions written out. -/
theorem encodeReturnsTheWireFrame : Obligations.EncodeReturnsTheWireFrame :=
  fun _ hs hfits => execEncode_of_fits hs hfits

/-- Settles O12: the check stands before the CRC. -/
theorem encodeOfTooLongPacketFails : Obligations.EncodeOfTooLongPacketFails :=
  fun _ hs hlong => execEncode_of_tooLong hs hlong

/-- Settles O13: the CRC adds two bytes, the delimiters two, and each escaped byte one, and at most every byte of
the frame is escaped. -/
theorem encodedLengthLaw : Obligations.EncodedLengthLaw := by
  intro s hs hfits
  let F := frameOf s.port.data
  let k := F.countP (fun x => x == byteEND || x == byteESC)
  have hF : F.length = s.port.data.length + 2 := length_frameOf s.port.data
  have hW : (wireOf F).length = F.length + k + 2 := length_wireOf F
  have hk : k ≤ F.length := List.countP_le_length
  have hcount : (wireOf F).length = s.port.data.length + k + 4 := by omega
  exact ⟨wireOf F, F, execEncode_of_fits hs hfits, hF, hcount, by omega, by omega⟩

/-- Settles O14: the checks of R119 one after the other, on the packet that R116 determines. -/
theorem sendChecksInOrder : Obligations.SendChecksInOrder := by
  intro dest s hs
  refine ⟨execSend_of_tooShort hs, fun P hlen hP => ?_⟩
  have hlenP : P.length = s.port.data.length := hP.1
  have hsend := execSend_of_normalised hs hlen hP
  rw [hlenP] at hsend
  refine ⟨fun hclosed => ?_, fun hopen hlong => ?_⟩
  · exact hsend.trans (if_pos hclosed)
  · exact hsend.trans ((if_neg (by simp [hopen])).trans (if_pos hlong))

/-- Settles O15: the checks pass, and each answer of the link decides what `write_outcome` does. -/
theorem sendWritesTheNormalisedFrame : Obligations.SendWritesTheNormalisedFrame := by
  intro dest s P hs hopen hlen hfits hP F W
  have hsend : exec (.send dest) s = .next (writeOutcome (s.port.write.within W.length) W F s) :=
    execSend_of_passes hs hopen hlen hfits hP
  rw [hsend]
  refine ⟨fun hwr => ?_, fun n hn hwr => ?_, fun hwr => ?_, fun hwr => ?_⟩
  · rw [hwr, within_wrote le_rfl, writeOutcome_all]
  · rw [hwr, within_wrote hn.le, writeOutcome_short hn]
  · rw [hwr]; rfl
  · rw [hwr]; rfl

end Sys2Proof.Claims

/-! The statements of 42_decoder.md: the decoder's answer to each byte in each of its states, the rows of its table,
read boundaries, and what it makes of encoded frames, whole or with one byte changed. -/

namespace Sys2Proof.Machine

open Sys2Proof.Claims

theorem rxCap_eq (c : Config) : rxCap c = c.maxPayload + 6 := by
  simp only [rxCap, pktCap, hdrLen, crcLen]
  omega

/-! ## A byte feed in each decoder state (R131 to R141) -/

theorem exec_of_feeds {i : Instr} {b : Byte} (h : Feeds i b) (s : State) :
    exec i s = s.running (finish (receive b s)) := by
  rcases h with rfl | rfl
  · rfl
  · exact exec_decodeLinkByte8 b s

section
variable {i : Instr} {b : Byte} {s : State} (hf : Feeds i b) (hs : s.halted = false)
include hf hs

theorem exec_of_feeds_running : exec i s = finish (receive b s) := by
  rw [exec_of_feeds hf, State.running_of_not_halted _ _ hs]

theorem exec_of_feeds_inPkt (hd : s.decState = .inPkt) : exec i s = finish (receiveInPkt b s) := by
  rw [exec_of_feeds_running hf hs, receive, hd]

theorem exec_of_feeds_inEsc (hd : s.decState = .inEsc) : exec i s = finish (receiveInEsc b s) := by
  rw [exec_of_feeds_running hf hs, receive, hd]

end

theorem receiveInPkt_byteEND (s : State) : receiveInPkt byteEND s = emitFrame s := rfl

theorem receiveInPkt_byteESC (s : State) : receiveInPkt byteESC s = .ok (s.withDec .inEsc) := rfl

theorem receiveInPkt_data {b : Byte} (hend : b ≠ byteEND) (hesc : b ≠ byteESC) (s : State) :
    receiveInPkt b s = append b s := by
  rw [receiveInPkt, if_neg hend, if_neg hesc]

theorem receiveInEsc_byteESCEND (s : State) : receiveInEsc byteESCEND s = append byteEND s := rfl

theorem receiveInEsc_byteESCESC (s : State) : receiveInEsc byteESCESC s = append byteESC s := rfl

theorem receiveInEsc_byteEND (s : State) : receiveInEsc byteEND s = .ok (resync .framingEndEsc s) := rfl

theorem receiveInEsc_byteESC (s : State) : receiveInEsc byteESC s = .ok (resync .framingEscEsc s) := rfl

theorem receiveInEsc_other {b : Byte} (hend : b ≠ byteEND) (hesc : b ≠ byteESC) (hescEnd : b ≠ byteESCEND)
    (hescEsc : b ≠ byteESCESC) (s : State) :
    receiveInEsc b s = .ok (resync (.framingBadEscape b) s) := by
  rw [receiveInEsc, if_neg hescEnd, if_neg hescEsc, if_neg hend, if_neg hesc]

/-! ## The answers of `append` (R142), `resync` (R143) and `emit_frame` (R144) -/

theorem finish_resync (e : Event) (s : State) : finish (.ok (resync e s)) = .next (resynced s e) := rfl

theorem finish_append_of_full {v : Byte} {s : State} (h : s.accLen = s.cfg.maxPayload + 6) :
    finish (append v s) = .next (resynced s (.framingOverflow s.accLen)) := by
  rw [append_of_full (h.trans (rxCap_eq _).symm), finish_resync]

theorem finish_append_of_room {s : State} (h : s.accLen < s.cfg.maxPayload + 6) (v : Byte) :
    ∃ t, finish (append v s) = .next t ∧ StoresByte s t v := by
  have hbyte (a : Nat) :
      State.accByte { s with acc := s.acc.write s.accLen v } a = if a = s.accLen then v else s.accByte a :=
    State.accByte_write s s.accLen a v
  rw [append_of_room (h.trans_eq (rxCap_eq _).symm)]
  refine ⟨_, rfl, ?_, fun a ha => ?_, by simp [State.reply, answers]⟩
  · exact (hbyte s.accLen).trans (if_pos rfl)
  · exact (hbyte a).trans (if_neg ha)

theorem memReadFrom_of_accHolds {s : State} {F : List Byte} (h : AccHolds s F) :
    s.memReadFrom 0 s.accLen = .ok F := by
  obtain ⟨hlen, hcap, hbytes⟩ := h
  rw [← hlen]
  refine State.memReadFrom_eq s F 0 (by rw [rxCap_eq]; omega) fun k hk => ?_
  rw [Nat.zero_add]
  exact hbytes k hk

theorem finish_emitFrame_of_accHolds {s : State} {F : List Byte} (hpos : 0 < s.accLen) (h : AccHolds s F) :
    finish (emitFrame s) = .next ((validateAndRoute F s.port.req
      { s with accLen := 0, outputs := s.outputs ++ [.event (.rxFrame F)] }).2.reply none) := by
  rw [emitFrame_of_read hpos (memReadFrom_of_accHolds h)]
  rfl

end Sys2Proof.Machine

namespace Sys2Proof.Claims

open Sys2Proof.Machine

/-- Settles O17: SKIP's own rule. -/
theorem skipDiscardsZeroFill : Obligations.SkipDiscardsZeroFill := by
  intro i s hf hs hd
  have hzero : receive 0x00#8 s = .ok s := by rw [receive, hd]; rfl
  rw [exec_of_feeds_running hf hs, hzero, finish, reply_eq_answers]

/-- Settles O18: SKIP hands the byte to INPKT's rules, which INPKT applies too. -/
theorem skipHandsNonZeroByteToInPkt : Obligations.SkipHandsNonZeroByteToInPkt := by
  intro b i s hb hf hd
  have hhand : receive b s = receive b (s.withDec .inPkt) := by simp [receive, hd, hb]
  rw [exec_of_feeds hf, exec_of_feeds hf, hhand]
  rfl

/-- Settles O19: the bytes below ACC_LEN are read back as the frame, and the validator judges it. -/
theorem inPktEndEmitsTheFrame : Obligations.InPktEndEmitsTheFrame := by
  intro i s hf hs hd
  rw [exec_of_feeds_inPkt hf hs hd, receiveInPkt_byteEND]
  refine ⟨fun hempty => ?_, fun F hpos hF => finish_emitFrame_of_accHolds hpos hF⟩
  rw [emitFrame_of_empty hempty, finish, reply_eq_answers]

/-- Settles O20: INPKT's rule for ESC. -/
theorem inPktEscBeginsAnEscape : Obligations.InPktEscBeginsAnEscape := by
  intro i s hf hs hd
  rw [exec_of_feeds_inPkt hf hs hd, receiveInPkt_byteESC, finish, reply_eq_answers]
  rfl

/-- Settles O21: INPKT appends the byte, and there is room for it. -/
theorem inPktAppendsDataVerbatim : Obligations.InPktAppendsDataVerbatim := by
  intro b i s hend hesc hf hs hd hroom
  rw [exec_of_feeds_inPkt hf hs hd, receiveInPkt_data hend hesc]
  exact finish_append_of_room hroom b

/-- Settles O22: INESC appends the byte its marker stands for, and there is room for it. -/
theorem inEscMarkersAppendLiterals : Obligations.InEscMarkersAppendLiterals := by
  intro i s hs hd hroom
  refine ⟨fun hf => ?_, fun hf => ?_⟩
  · rw [exec_of_feeds_inEsc hf hs hd, receiveInEsc_byteESCEND]
    exact finish_append_of_room hroom _
  · rw [exec_of_feeds_inEsc hf hs hd, receiveInEsc_byteESCESC]
    exact finish_append_of_room hroom _

/-- Settles O23: each of INESC's last three rules is a resynchronisation. -/
theorem inEscViolationsResynchronise : Obligations.InEscViolationsResynchronise := by
  intro i s hs hd
  refine ⟨fun hf => ?_, fun hf => ?_, fun b hend hesc hescEnd hescEsc hf => ?_⟩
  · rw [exec_of_feeds_inEsc hf hs hd, receiveInEsc_byteEND, finish_resync]
  · rw [exec_of_feeds_inEsc hf hs hd, receiveInEsc_byteESC, finish_resync]
  · rw [exec_of_feeds_inEsc hf hs hd, receiveInEsc_other hend hesc hescEnd hescEsc, finish_resync]

/-- Settles O24: every byte that is stored goes through `append`, and the accumulator is full. -/
theorem fullAccumulatorOverflows : Obligations.FullAccumulatorOverflows := by
  intro b i s hf hs hfull hbyte
  obtain ⟨hd, hend, hesc⟩ | ⟨hd, rfl | rfl⟩ := hbyte
  · rw [exec_of_feeds_inPkt hf hs hd, receiveInPkt_data hend hesc, finish_append_of_full hfull]
  · rw [exec_of_feeds_inEsc hf hs hd, receiveInEsc_byteESCEND, finish_append_of_full hfull]
  · rw [exec_of_feeds_inEsc hf hs hd, receiveInEsc_byteESCESC, finish_append_of_full hfull]

/-- Settles O25: column by column, in each decoder state. -/
theorem linkByteRowsActAsRxByte : Obligations.LinkByteRowsActAsRxByte :=
  exec_decodeLinkByte8

/-- Settles O48: a running block completes each of the three, and the halting transition writes HALTED alone. -/
theorem rxStatusHaltsOnFatalConditions : Obligations.RxStatusHaltsOnFatalConditions :=
  fun s hs => ⟨State.running_reply hs none, State.running_of_not_halted s _ hs, State.running_of_not_halted s _ hs⟩

end Sys2Proof.Claims

namespace Sys2Proof.Machine

open Sys2Proof.Claims

/-! ## SKIP (R147) -/

/-- The decoder stays in SKIP or leaves it for good. -/
theorem DecoderStep.skip_of_skip {b : Byte} {s u : State} (h : DecoderStep b s u) (hu : u.decState = .skip) :
    s.decState = .skip := by
  cases h with
  | discard hd _ _ => exact hd
  | emptyFrame _ _ _ ht => subst ht; cases hu
  | frame _ _ _ _ _ _ _ ht => subst ht; cases hu
  | escape _ _ ht => subst ht; cases hu
  | violation _ _ ht => subst ht; cases hu
  | store _ _ ht => subst ht; cases hu

/-! ## Runs of zero bytes (R103, R148) -/

theorem crcStep_zero_zero : crcStep 0 0x00#8 = 0 := rfl

theorem crc16_replicate_zero (n : Nat) : crc16 (List.replicate n 0x00#8) = 0 := by
  induction n with
  | zero => rfl
  | succ n ih => rwa [crc16, List.replicate_succ, List.foldl_cons, crcStep_zero_zero]

theorem opOf_zero (L : CmdLayout) : L.opOf 0x00#8 = 0#2 := by
  rw [CmdLayout.opOf]
  exact BitVec.extractLsb'_zero

/-- R163: NOP is no operation that step 3 lets pass. -/
theorem opOk_opNop {c : Config} (hc : c.wf) : opOk c c.layout.opNop = false := by
  obtain ⟨-, -, -, hread, hwrite, hwrrd, -⟩ := hc
  simp [opOk, hread, hwrite, hwrrd]

theorem validateAndRoute_of_badOp {F : List Byte} {s : State} (hlen : minFrame ≤ F.length) (hcrc : crc16 F = 0)
    (hop : opOk s.cfg (s.cfg.layout.opOf (byteAt F 0)) = false) (req : Byte) :
    validateAndRoute F req s = rejectOpcode (s.cfg.layout.opOf (byteAt F 0)) F s := by
  rw [validateAndRoute, if_neg (not_lt.mpr hlen), if_neg (not_not.mpr hcrc)]
  exact if_pos hop

theorem execParse_of_fits {s : State} (hs : s.halted = false) (h : s.port.data.length ≤ s.cfg.maxPayload + 6)
    (req : Byte) : execParse req s = .next (replyVerdict (validateAndRoute s.port.data req s)) := by
  rw [← rxCap_eq] at h
  rw [execParse, if_neg (not_lt.mpr h), State.running_of_not_halted _ _ hs]

/-! ## Read boundaries (R145, R146) -/

/-- The bytes of ACC from an address up to RX_CAP can be read. -/
theorem State.memReadFrom_total (s : State) {a n : Nat} (h : a + n ≤ rxCap s.cfg) :
    ∃ F, s.memReadFrom a n = .ok F := by
  let F := (List.range n).map fun k => s.accByte (a + k)
  have hF : F.length = n := by simp [F]
  exact ⟨F, hF ▸ s.memReadFrom_eq F a (hF.symm ▸ h) (by simp [F])⟩

/-- With ACC_LEN in its range every act of the decoder completes. -/
theorem DecoderAct.run_total (act : DecoderAct) {s : State} (h : s.accLen ≤ rxCap s.cfg) :
    ∃ u, act.run s = .ok u := by
  cases act with
  | goTo d => exact ⟨_, rfl⟩
  | emit =>
    rcases Nat.eq_zero_or_pos s.accLen with hempty | hpos
    · exact ⟨_, emitFrame_of_empty (s := s.withDec .inPkt) hempty⟩
    · obtain ⟨F, hF⟩ := (s.withDec .inPkt).memReadFrom_total (a := 0) (n := s.accLen) (by simpa using h)
      exact ⟨_, emitFrame_of_read (s := s.withDec .inPkt) hpos hF⟩
  | append v =>
    rcases h.eq_or_lt with hfull | hroom
    · exact ⟨_, append_of_full hfull⟩
    · exact ⟨_, append_of_room hroom⟩
  | resync e => exact ⟨_, rfl⟩

/-- R32 (1): no transition of the decoder takes ACC_LEN out of its range. -/
theorem DecoderStep.accLen_le {b : Byte} {s u : State} (h : DecoderStep b s u) (hs : s.accLen ≤ rxCap s.cfg) :
    u.accLen ≤ rxCap u.cfg := by
  cases h with
  | discard _ _ ht => subst ht; exact hs
  | emptyFrame _ _ _ ht => subst ht; exact hs
  | frame _ _ _ _ _ _ _ ht => subst ht; exact Nat.zero_le _
  | escape _ _ ht => subst ht; exact hs
  | violation _ _ ht => subst ht; exact Nat.zero_le _
  | store v hlt ht => subst ht; exact hlt

/-! No act of the decoder reads the results, so that a result more or less beforehand is one after it. -/

section
variable (s : State) (r : Option Result)

theorem accept_reply (F : List Byte) (c : Nibble) :
    accept F c (s.reply r) = (accept F c s).map id (State.reply · r) :=
  ite_eq_apply_ite (Prod.map id (State.reply · r)) rfl rfl

theorem validateAndRoute_reply (F : List Byte) (req : Byte) :
    validateAndRoute F req (s.reply r) = (validateAndRoute F req s).map id (State.reply · r) := by
  refine ite_eq_apply_ite (Prod.map id (State.reply · r)) rfl ?_
  refine ite_eq_apply_ite (Prod.map id (State.reply · r)) rfl ?_
  refine ite_eq_apply_ite (Prod.map id (State.reply · r)) rfl ?_
  refine ite_eq_apply_ite (Prod.map id (State.reply · r)) rfl ?_
  exact ite_eq_apply_ite (Prod.map id (State.reply · r)) rfl (accept_reply s r F _)

theorem emitFrame_reply : emitFrame (s.reply r) = (emitFrame s).map (State.reply · r) := by
  refine ite_eq_apply_ite (Except.map (State.reply · r)) ?_ rfl
  have hread : (s.reply r).memReadFrom 0 s.accLen = s.memReadFrom 0 s.accLen :=
    State.memReadFrom_congr (s := s) (t := s.reply r) rfl rfl rfl 0 s.accLen
  rw [State.reply_accLen, hread]
  cases s.memReadFrom 0 s.accLen with
  | error f => rfl
  | ok F =>
    exact congrArg (fun x => Except.ok x.2)
      (validateAndRoute_reply ((s.withAccLen 0).log (.rxFrame F)) r F s.port.req)

end

/-- R142, with ACC_LEN in its range. -/
theorem append_reply {s : State} (h : s.accLen ≤ rxCap s.cfg) (v : Byte) (r : Option Result) :
    append v (s.reply r) = (append v s).map (State.reply · r) := by
  rcases h.eq_or_lt with hfull | hroom
  · rw [append_of_full hfull, append_of_full (s := s.reply r) hfull]
    rfl
  · rw [append_of_room hroom, append_of_room (s := s.reply r) hroom]
    rfl

theorem DecoderAct.run_reply (act : DecoderAct) {s : State} (h : s.accLen ≤ rxCap s.cfg) (r : Option Result) :
    act.run (s.reply r) = (act.run s).map (State.reply · r) := by
  cases act with
  | goTo d => rfl
  | emit => exact emitFrame_reply (s.withDec .inPkt) r
  | append v => exact append_reply h v r
  | resync e => rfl

/-- A running block with ACC_LEN in its range receives any byte, stays such a block, and receives it alike with one
more empty result before it. -/
theorem exec_rxByte_total {s : State} (hs : s.halted = false) (hlen : s.accLen ≤ rxCap s.cfg) (b : Byte) :
    ∃ t, exec (.rxByte b) s = .next t ∧ exec (.rxByte b) (s.reply none) = .next (t.reply none) ∧
      t.halted = false ∧ t.accLen ≤ rxCap t.cfg := by
  obtain ⟨act, hact⟩ := receive_act b s.decState
  obtain ⟨u, hu⟩ := act.run_total hlen
  have hrec : receive b s = .ok u := (hact s rfl).trans hu
  have hrec' : receive b (s.reply none) = .ok (u.reply none) := by
    rw [hact (s.reply none) rfl, act.run_reply hlen, hu]
    rfl
  have hstep := receive_cases hrec
  obtain ⟨-, -, hhalted⟩ := hstep.control_frame
  refine ⟨u.reply none, ?_, ?_, hhalted.trans hs, hstep.accLen_le hlen⟩
  · rw [exec_of_feeds_running (.inl rfl) hs, hrec, finish]
  · rw [exec_of_feeds_running (.inl rfl) (s := s.reply none) hs, hrec', finish]

/-- So does it receive the bytes of a read. -/
theorem rxChunk_total (rs : List Received) {s : State} (hs : s.halted = false) (hlen : s.accLen ≤ rxCap s.cfg) :
    ∃ t, rxChunk rs s = .next t ∧ rxChunk rs (s.reply none) = .next (t.reply none) ∧
      t.halted = false ∧ t.accLen ≤ rxCap t.cfg := by
  induction rs generalizing s with
  | nil => exact ⟨s, rfl, rfl, hs, hlen⟩
  | cons r rs ih =>
    obtain ⟨u, hu, hu', hrun, hin⟩ := exec_rxByte_total (s := s.withReq r.req) hs hlen r.byte
    obtain ⟨t, ht, ht', hrest⟩ := ih hrun hin
    refine ⟨t, ?_, ?_, hrest⟩
    · rw [rxChunk, hu]; exact ht
    · rw [rxChunk, show (s.reply none).withReq r.req = (s.withReq r.req).reply none from rfl, hu']; exact ht'

end Sys2Proof.Machine

namespace Sys2Proof.Claims

open Sys2Proof.Machine

/-- Settles O26, by the shapes of the state after an operation: only the decoder writes DEC_STATE. -/
theorem skipIsEnteredOnlyByReset : Obligations.SkipIsEnteredOnlyByReset := by
  intro i s t hi h hskip
  cases exec_effect h with
  | answer _ _ _ ht => subst ht; exact hskip
  | decoder _ _ _ hu ht => subst ht; exact hu.skip_of_skip hskip
  | bind _ _ _ ht => subst ht; exact hskip
  | halt _ _ _ ht => subst ht; exact hskip
  | reset hreset _ => exact absurd hreset hi

/-- Settles O28: the CRC of a run of zero bytes is zero, and its command byte has OP = NOP. -/
theorem zeroRunsAreRejected : Obligations.ZeroRunsAreRejected := by
  intro req s n hs hc hnop hn hdata
  have hlen : s.port.data.length = n := by rw [hdata, List.length_replicate]
  have hparse : exec (.parse req) s = .next (replyVerdict (validateAndRoute s.port.data req s)) :=
    execParse_of_fits hs (hlen.trans_le hn) req
  rw [hparse]
  refine ⟨fun hshort => ?_, fun hlong => ?_⟩
  · rw [validateAndRoute_of_short (hlen.trans_lt hshort), hlen]
    rfl
  · have hcrc : crc16 s.port.data = 0 := by rw [hdata, crc16_replicate_zero]
    have hop : s.cfg.layout.opOf (byteAt s.port.data 0) = 0#2 := by
      have hfirst : byteAt s.port.data 0 = 0x00#8 := by rw [hdata, byteAt, List.getD_replicate _ (by omega)]
      rw [hfirst, opOf_zero]
    have hbad : opOk s.cfg (s.cfg.layout.opOf (byteAt s.port.data 0)) = false := by
      rw [hop.trans hnop.symm, opOk_opNop hc]
    rw [validateAndRoute_of_badOp (hlong.trans_eq hlen.symm) hcrc hbad, hop]
    rfl

/-- Settles O29: a read's bytes are received one after the other, and the would-block read between them adds an empty
result, which the bytes after it do not look at. -/
theorem readBoundaryHasNoEffect : Obligations.ReadBoundaryHasNoEffect := by
  intro x y s hs hlen
  obtain ⟨u, hx, -, hrun, hin⟩ := rxChunk_total x hs (hlen.trans_eq (rxCap_eq _).symm)
  obtain ⟨t, hy, hy', -⟩ := rxChunk_total y hrun hin
  have hblock : exec (.rxStatus .wouldBlock) u = .next (u.reply none) := State.running_of_not_halted u _ hrun
  exact ⟨t, u, u.reply none, t.reply none, by rw [rxChunk_append, hx]; exact hy, hx, hblock, hy', rfl⟩

end Sys2Proof.Claims

namespace Sys2Proof.Machine

open Sys2Proof.Claims

/-! ## What a read of some bytes does, whatever they draw (R145) -/

/-- Received from `s` with any draws, these bytes complete, in a state and with new outputs that meet `R`. -/
def Reads (bs : List Byte) (s : State) (R : State → List Output → Prop) : Prop :=
  ∀ rs : List Received, rs.map Received.byte = bs →
    ∃ t o, rxChunk rs s = .next t ∧ t.outputs = s.outputs ++ o ∧ R t o

section
variable {x y : List Byte} {b : Byte} {s : State} {R R' : State → List Output → Prop}

theorem reads_nil (h : R s []) : Reads [] s R := by
  intro rs hrs
  obtain rfl := List.map_eq_nil_iff.mp hrs
  exact ⟨s, [], rfl, (List.append_nil _).symm, h⟩

theorem reads_singleton
    (h : ∀ req, ∃ t o, exec (.rxByte b) (s.withReq req) = .next t ∧ t.outputs = s.outputs ++ o ∧ R t o) :
    Reads [b] s R := by
  intro rs hrs
  obtain ⟨r, rfl, rfl⟩ := List.map_eq_singleton_iff.mp hrs
  obtain ⟨t, o, ht, hrest⟩ := h r.req
  exact ⟨t, o, by rw [rxChunk, ht]; rfl, hrest⟩

theorem Reads.append (hx : Reads x s R) (hy : ∀ t o, R t o → Reads y t fun u p => R' u (o ++ p)) :
    Reads (x ++ y) s R' := by
  intro rs hrs
  obtain ⟨xs, ys, rfl, hxs, hys⟩ := List.map_eq_append_iff.mp hrs
  obtain ⟨t, o, ht, hto, hR⟩ := hx xs hxs
  obtain ⟨u, p, hu, hup, hR'⟩ := hy t o hR ys hys
  refine ⟨u, o ++ p, ?_, ?_, hR'⟩
  · rw [rxChunk_append, ht]; exact hu
  · rw [hup, hto, List.append_assoc]

theorem Reads.mono (h : Reads x s R) (hR : ∀ t o, R t o → R' t o) : Reads x s R' := by
  intro rs hrs
  obtain ⟨t, o, ht, ho, hto⟩ := h rs hrs
  exact ⟨t, o, ht, ho, hR t o hto⟩

end

/-! ## A frame in the accumulator (R130, R142) -/

/-- A running block of configuration `c` in decoder state `d`, with the bytes `F` in the accumulator. -/
structure Holds (c : Config) (d : DecState) (F : List Byte) (s : State) : Prop where
  running : s.halted = false
  cfg : s.cfg = c
  dec : s.decState = d
  acc : AccHolds s F

/-- The same, with nothing put out. -/
def HoldsSilently (c : Config) (d : DecState) (F : List Byte) (s : State) (o : List Output) : Prop :=
  Holds c d F s ∧ o = []

theorem Reads.append_silent {x y : List Byte} {s : State} {R : State → List Output → Prop} {c : Config}
    {d : DecState} {F : List Byte} (hx : Reads x s (HoldsSilently c d F)) (hy : ∀ t, Holds c d F t → Reads y t R) :
    Reads (x ++ y) s R := by
  refine hx.append fun t o hto => ?_
  obtain ⟨ht, rfl⟩ := hto
  exact hy t ht

theorem accHolds_nil {s : State} (h : s.accLen = 0) : AccHolds s [] :=
  ⟨h.symm, by omega, nofun⟩

theorem accHolds_of_storesByte {s t : State} {F : List Byte} {v : Byte} (h : AccHolds s F)
    (hroom : s.accLen < s.cfg.maxPayload + 6) (ht : StoresByte s t v) : AccHolds t (F ++ [v]) := by
  obtain ⟨hlen, -, hbytes⟩ := h
  obtain ⟨hnew, hold, hframe⟩ := ht
  have htlen : t.accLen = s.accLen + 1 := by rw [hframe]
  have htcfg : t.cfg = s.cfg := by rw [hframe]; rfl
  refine ⟨by simp [hlen, htlen], by rw [htlen, htcfg]; exact hroom, fun k hk => ?_⟩
  by_cases hlt : k < F.length
  · rw [hold k (by omega), hbytes k hlt, List.getElem_append_left hlt]
  · have hlast : k = F.length := by simp at hk; omega
    subst hlast
    simpa [hlen] using hnew

section
variable {c : Config} {d : DecState} {F : List Byte} {s : State}

theorem Holds.withReq (h : Holds c d F s) (req : Byte) : Holds c d F (s.withReq req) :=
  ⟨h.running, h.cfg, h.dec, h.acc⟩

theorem Holds.accLen_eq (h : Holds c d F s) : s.accLen = F.length := by
  obtain ⟨hlen, -⟩ := h.acc
  exact hlen.symm

theorem Holds.room (h : Holds c d F s) (hF : F.length < c.maxPayload + 6) : s.accLen < s.cfg.maxPayload + 6 := by
  rwa [h.accLen_eq, h.cfg]

/-- A byte that is received by storing `v` adds `v` to the frame, in silence. -/
theorem Holds.reads_stored (h : Holds c d F s) (hF : F.length < c.maxPayload + 6) {b v : Byte}
    (hb : ∀ u, Holds c d F u → ∃ t, exec (.rxByte b) u = .next t ∧ StoresByte u t v) :
    Reads [b] s (HoldsSilently c .inPkt (F ++ [v])) := by
  refine reads_singleton fun req => ?_
  have hu := h.withReq req
  obtain ⟨t, ht, hstore⟩ := hb _ hu
  have hacc := accHolds_of_storesByte hu.acc (hu.room hF) hstore
  obtain ⟨-, -, hframe⟩ := hstore
  refine ⟨t, [], ht, by rw [hframe]; rfl, ⟨?_, ?_, ?_, hacc⟩, rfl⟩
  · rw [hframe]; exact h.running
  · rw [hframe]; exact h.cfg
  · rw [hframe]

/-! ## The bytes of an encoded frame (R110, R111, R134 to R138) -/

theorem Holds.reads_data (h : Holds c .inPkt F s) (hF : F.length < c.maxPayload + 6) {b : Byte} (hend : b ≠ byteEND)
    (hesc : b ≠ byteESC) : Reads [b] s (HoldsSilently c .inPkt (F ++ [b])) :=
  h.reads_stored hF fun _ hu =>
    inPktAppendsDataVerbatim _ _ _ hend hesc (.inl rfl) hu.running hu.dec (hu.room hF)

theorem Holds.reads_byteESC (h : Holds c .inPkt F s) : Reads [byteESC] s (HoldsSilently c .inEsc F) := by
  refine reads_singleton fun req => ?_
  have hu := h.withReq req
  refine ⟨_, [], inPktEscBeginsAnEscape _ _ (.inl rfl) hu.running hu.dec, rfl, ?_, rfl⟩
  exact ⟨h.running, h.cfg, rfl, h.acc⟩

theorem Holds.reads_byteESCEND (h : Holds c .inEsc F s) (hF : F.length < c.maxPayload + 6) :
    Reads [byteESCEND] s (HoldsSilently c .inPkt (F ++ [byteEND])) := by
  refine h.reads_stored hF fun u hu => ?_
  obtain ⟨hmark, -⟩ := inEscMarkersAppendLiterals (.rxByte byteESCEND) u hu.running hu.dec (hu.room hF)
  exact hmark (.inl rfl)

theorem Holds.reads_byteESCESC (h : Holds c .inEsc F s) (hF : F.length < c.maxPayload + 6) :
    Reads [byteESCESC] s (HoldsSilently c .inPkt (F ++ [byteESC])) := by
  refine h.reads_stored hF fun u hu => ?_
  obtain ⟨-, hmark⟩ := inEscMarkersAppendLiterals (.rxByte byteESCESC) u hu.running hu.dec (hu.room hF)
  exact hmark (.inl rfl)

/-- Stuffing a byte and receiving it gives the byte. -/
theorem Holds.reads_stuff (h : Holds c .inPkt F s) (hF : F.length < c.maxPayload + 6) (x : Byte) :
    Reads (stuff x) s (HoldsSilently c .inPkt (F ++ [x])) := by
  unfold stuff
  split_ifs with hend hesc
  · subst hend
    exact h.reads_byteESC.append_silent fun _ ht => ht.reads_byteESCEND hF
  · subst hesc
    exact h.reads_byteESC.append_silent fun _ ht => ht.reads_byteESCESC hF
  · exact h.reads_data hF hend hesc

theorem Holds.reads_flatMap_stuff (G : List Byte) (h : Holds c .inPkt F s)
    (hlen : F.length + G.length ≤ c.maxPayload + 6) :
    Reads (G.flatMap stuff) s (HoldsSilently c .inPkt (F ++ G)) := by
  induction G generalizing F s with
  | nil => exact reads_nil ⟨by rwa [List.append_nil], rfl⟩
  | cons x G ih =>
    rw [List.length_cons] at hlen
    have hrest (t : State) (ht : Holds c .inPkt (F ++ [x]) t) :
        Reads (G.flatMap stuff) t (HoldsSilently c .inPkt (F ++ x :: G)) := by
      have hread := ih ht (by simp only [List.length_append, List.length_singleton]; omega)
      rwa [List.append_assoc] at hread
    exact (h.reads_stuff (by omega) x).append_silent hrest

/-- What the validator puts out for the frame `F`, in some state with some requested count. -/
def IsOutcomeOf (F : List Byte) (x : Output) : Prop :=
  ∃ req s v, validateAndRoute F req s = (v, s.emit [x])

/-- After a frame `F` the decoder is in INPKT with an empty accumulator, and put out the frame and its outcome. -/
def EmitsFrame (c : Config) (F : List Byte) (s : State) (o : List Output) : Prop :=
  Holds c .inPkt [] s ∧ ∃ x, IsOutcomeOf F x ∧ o = [.event (.rxFrame F), x]

theorem Holds.exec_byteEND (h : Holds c .inPkt F s) (hF : F ≠ []) :
    ∃ x, IsOutcomeOf F x ∧ exec (.rxByte byteEND) s =
      .next (answers (s.withAccLen 0) [.event (.rxFrame F), x] none) := by
  have hpos : 0 < s.accLen := by
    rw [h.accLen_eq]
    exact List.length_pos_iff.mpr hF
  obtain ⟨-, hemit⟩ := inPktEndEmitsTheFrame (.rxByte byteEND) s (.inl rfl) h.running h.dec
  obtain ⟨v, x, hval, -⟩ := validateAndRoute_cases F s.port.req ((s.withAccLen 0).log (.rxFrame F))
  refine ⟨x, ⟨_, _, v, hval⟩, (hemit F hpos h.acc).trans ?_⟩
  refine (congrArg (fun r : Verdict × State => Host.Outcome.next (r.2.reply none)) hval).trans ?_
  simp [answers, State.emit, State.reply, State.log]

theorem Holds.reads_closing_byteEND (h : Holds c .inPkt F s) (hF : F ≠ []) : Reads [byteEND] s (EmitsFrame c F) := by
  refine reads_singleton fun req => ?_
  obtain ⟨x, hx, hnext⟩ := (h.withReq req).exec_byteEND hF
  exact ⟨_, _, hnext, rfl, ⟨h.running, h.cfg, h.dec, accHolds_nil rfl⟩, x, hx, rfl⟩

/-- What the opening END of a frame puts out, by the decoder state it meets. -/
def openingOutput (d : DecState) : List Output :=
  if d = .inEsc then [.event .framingEndEsc] else []

/-- R133, R134, R139: on an empty accumulator END leads to INPKT from every state. -/
theorem Holds.reads_opening_byteEND (h : Holds c d [] s) :
    Reads [byteEND] s fun t o => Holds c .inPkt [] t ∧ o = openingOutput d := by
  refine reads_singleton fun req => ?_
  have hu := h.withReq req
  have hempty : (s.withReq req).accLen = 0 := hu.accLen_eq
  cases d with
  | skip =>
    have hhand := skipHandsNonZeroByteToInPkt byteEND (.rxByte byteEND) _ (by decide) (.inl rfl) hu.dec
    obtain ⟨hnext, -⟩ :=
      inPktEndEmitsTheFrame (.rxByte byteEND) ((s.withReq req).withDec .inPkt) (.inl rfl) h.running rfl
    exact ⟨_, [], hhand.trans (hnext hempty), rfl, ⟨h.running, h.cfg, rfl, accHolds_nil hempty⟩, rfl⟩
  | inPkt =>
    obtain ⟨hnext, -⟩ := inPktEndEmitsTheFrame (.rxByte byteEND) _ (.inl rfl) hu.running hu.dec
    exact ⟨_, [], hnext hempty, rfl, ⟨h.running, h.cfg, h.dec, accHolds_nil hempty⟩, rfl⟩
  | inEsc =>
    obtain ⟨hnext, -⟩ := inEscViolationsResynchronise (.rxByte byteEND) _ hu.running hu.dec
    exact ⟨_, _, hnext (.inl rfl), rfl, ⟨h.running, h.cfg, rfl, accHolds_nil rfl⟩, rfl⟩

/-- R71, R149: the wire frame of a logical frame that fits is decoded to that frame. -/
theorem Holds.reads_wireOf (h : Holds c d [] s) (hF : F ≠ []) (hlen : F.length ≤ c.maxPayload + 6) :
    Reads (wireOf F) s fun t o => ∃ p, EmitsFrame c F t p ∧ o = openingOutput d ++ p := by
  rw [wireOf, List.append_assoc]
  refine h.reads_opening_byteEND.append fun t o hto => ?_
  obtain ⟨ht, rfl⟩ := hto
  have hbody : Reads (F.flatMap stuff) t (HoldsSilently c .inPkt F) := ht.reads_flatMap_stuff F (by simpa using hlen)
  have hframe : Reads (F.flatMap stuff ++ [byteEND]) t (EmitsFrame c F) :=
    hbody.append_silent fun _ hu => hu.reads_closing_byteEND hF
  exact hframe.mono fun u p hp => ⟨p, hp, rfl⟩

end

/-! ## Many frames (R149) -/

theorem IsOutcomeOf.isOutcome {F : List Byte} {x : Output} (h : IsOutcomeOf F x) : x.isOutcome = true := by
  obtain ⟨req, s, v, hval⟩ := h
  obtain ⟨w, y, hval', hy⟩ := validateAndRoute_cases F req s
  have hxy : x = y := by simpa [State.emit] using congrArg (fun r => r.2.outputs) (hval.symm.trans hval')
  subst hxy
  rcases hy with ⟨_, e, -, rfl, he⟩ | ⟨_, -, rfl, -⟩ | ⟨_, -, rfl, -⟩
  · simp [Output.isOutcome, he]
  · rfl
  · rfl

/-- The outputs of a read that has these frames and no framing violation. -/
def FramesOnly (Fs : List (List Byte)) (o : List Output) : Prop :=
  o.filterMap Output.rxFrame? = Fs ∧ o.filter Output.isFraming = []

theorem FramesOnly.append {Fs Gs : List (List Byte)} {o p : List Output} (ho : FramesOnly Fs o) (hp : FramesOnly Gs p) :
    FramesOnly (Fs ++ Gs) (o ++ p) := by
  obtain ⟨hFs, ho⟩ := ho
  obtain ⟨hGs, hp⟩ := hp
  exact ⟨by rw [List.filterMap_append, hFs, hGs], by rw [List.filter_append, ho, hp]; rfl⟩

/-- An outcome is neither a frame nor a framing violation. -/
theorem framesOnly_of_isOutcome {x : Output} (h : x.isOutcome = true) : FramesOnly [] [x] := by
  cases x with
  | tx => cases h
  | dispatch => exact ⟨rfl, rfl⟩
  | event e =>
    cases e with
    | rejShort | rejCrc | rejOpcode | rejCore | rejReadCount | routeMiss => exact ⟨rfl, rfl⟩
    | _ => cases h

theorem EmitsFrame.framesOnly {c : Config} {F : List Byte} {s : State} {o : List Output} (h : EmitsFrame c F s o) :
    FramesOnly [F] o := by
  obtain ⟨-, x, hx, rfl⟩ := h
  have hframe : FramesOnly [F] [.event (.rxFrame F)] := ⟨rfl, rfl⟩
  exact hframe.append (framesOnly_of_isOutcome hx.isOutcome)

theorem frameOf_ne_nil (P : List Byte) : frameOf P ≠ [] := by
  simp [frameOf, bigEndian]

theorem Holds.reads_wireOf_frameOf {c : Config} {d : DecState} {s : State} {P : List Byte} (h : Holds c d [] s)
    (hP : P.length ≤ c.maxPayload + 4) :
    Reads (wireOf (frameOf P)) s fun t o =>
      ∃ p, Holds c .inPkt [] t ∧ FramesOnly [frameOf P] p ∧ o = openingOutput d ++ p := by
  have hlen : (frameOf P).length ≤ c.maxPayload + 6 := by rw [length_frameOf]; omega
  refine (h.reads_wireOf (frameOf_ne_nil P) hlen).mono fun t o hto => ?_
  obtain ⟨p, hp, rfl⟩ := hto
  exact ⟨p, hp.1, hp.framesOnly, rfl⟩

/-- R149, once the decoder is in INPKT. -/
theorem Holds.reads_packets {c : Config} {s : State} {Ps : List (List Byte)} (h : Holds c .inPkt [] s)
    (hPs : ∀ P ∈ Ps, P.length ≤ c.maxPayload + 4) :
    Reads (Ps.flatMap fun P => wireOf (frameOf P)) s fun t o =>
      Holds c .inPkt [] t ∧ FramesOnly (Ps.map frameOf) o := by
  induction Ps generalizing s with
  | nil => exact reads_nil ⟨h, rfl, rfl⟩
  | cons P Ps ih =>
    obtain ⟨hP, hPs⟩ := List.forall_mem_cons.mp hPs
    refine (h.reads_wireOf_frameOf hP).append fun t o hto => ?_
    obtain ⟨p, ht, hp, rfl⟩ := hto
    exact (ih ht hPs).mono fun u q hq => ⟨hq.1, hp.append hq.2⟩

/-! ## One byte changed (R150) -/

theorem eq_zero_of_highByte_of_shiftLeft {crc : U16} (hhigh : crc.extractLsb' 8 8 = 0) (hlow : crc <<< 8 = 0) :
    crc = 0 := by
  rw [← BitVec.toNat_inj] at hhigh hlow ⊢
  simp only [BitVec.extractLsb'_toNat, BitVec.toNat_shiftLeft, Nat.shiftRight_eq_div_pow, Nat.shiftLeft_eq,
    BitVec.ofNat_eq_ofNat, BitVec.toNat_ofNat] at hhigh hlow ⊢
  omega

/-- Two different bytes take a CRC to two different values. -/
theorem crcStep_injective_byte {crc : U16} {a b : Byte} (h : crcStep crc a = crcStep crc b) : a = b := by
  have hzero : crcStep (crc ^^^ crc) (a ^^^ b) = 0 := by rw [crcStep_xor, h]; exact BitVec.xor_self
  rw [BitVec.xor_self] at hzero
  obtain ⟨hab, -⟩ := (crcStep_eq_zero_iff 0 _).mp hzero
  exact BitVec.xor_eq_zero_iff.mp hab

/-- A byte takes two different CRCs to two different values. -/
theorem crcStep_injective_crc {a b : U16} {x : Byte} (h : crcStep a x = crcStep b x) : a = b := by
  have hzero : crcStep (a ^^^ b) (x ^^^ x) = 0 := by rw [crcStep_xor, h]; exact BitVec.xor_self
  rw [BitVec.xor_self] at hzero
  obtain ⟨hhigh, hlow⟩ := (crcStep_eq_zero_iff _ 0).mp hzero
  exact BitVec.xor_eq_zero_iff.mp (eq_zero_of_highByte_of_shiftLeft hhigh.symm hlow)

theorem foldl_crcStep_injective {a b : U16} {x : List Byte} (h : x.foldl crcStep a = x.foldl crcStep b) : a = b := by
  induction x generalizing a b with
  | nil => exact h
  | cons v x ih => exact crcStep_injective_crc (ih h)

/-- The CRC finds one changed byte. -/
theorem crc16_ne_of_changed {A B : List Byte} {x v : Byte} (h : v ≠ x) :
    crc16 (A ++ v :: B) ≠ crc16 (A ++ x :: B) := by
  intro heq
  simp only [crc16, List.foldl_append, List.foldl_cons] at heq
  exact h (crcStep_injective_byte (foldl_crcStep_injective heq))

theorem stuff_of_data {x : Byte} (hend : x ≠ byteEND) (hesc : x ≠ byteESC) : stuff x = [x] := by
  rw [stuff, if_neg hend, if_neg hesc]

/-- A byte is stuffed as itself, or as an escape pair. -/
theorem stuff_cases (x : Byte) : stuff x = [x] ∨ ∃ m, stuff x = [byteESC, m] := by
  unfold stuff
  split_ifs
  · exact .inr ⟨_, rfl⟩
  · exact .inr ⟨_, rfl⟩
  · exact .inl rfl

/-- In a stuffed string, after some byte `b`, a byte that is no part of an escape pair is a byte of the string
itself, and changing it there is changing it in the string. -/
theorem flatMap_stuff_set {F : List Byte} {b v : Byte} {k : Nat} (hk : k < (F.flatMap stuff).length)
    (hesc : byteAt (F.flatMap stuff) k ≠ byteESC) (hprev : byteAt (b :: F.flatMap stuff) k ≠ byteESC)
    (hv : stuff v = [v]) :
    ∃ A B, F = A ++ byteAt (F.flatMap stuff) k :: B ∧ (F.flatMap stuff).set k v = (A ++ v :: B).flatMap stuff := by
  induction F generalizing b k with
  | nil => cases hk
  | cons y F ih =>
    rw [List.flatMap_cons] at hk hesc hprev ⊢
    obtain hy | ⟨m, hy⟩ := stuff_cases y
    · rw [hy] at hk hesc hprev ⊢
      cases k with
      | zero => exact ⟨[], F, rfl, by simp [hv]⟩
      | succ k =>
        obtain ⟨A, B, hF, hset⟩ := ih (b := y) (Nat.lt_of_succ_lt_succ hk) hesc hprev
        exact ⟨y :: A, B, congrArg (y :: ·) hF, by simp [hset, hy]⟩
    · rw [hy] at hk hesc hprev ⊢
      match k with
      | 0 => exact absurd rfl hesc
      | 1 => exact absurd rfl hprev
      | k + 2 =>
        obtain ⟨A, B, hF, hset⟩ := ih (b := m) (by simpa using hk) hesc hprev
        exact ⟨y :: A, B, congrArg (y :: ·) hF, by simp [hset, hy]⟩

/-- R150: a changed byte of a wire frame, no delimiter and no part of an escape pair, is a changed byte of the
logical frame. -/
theorem wireOf_set {F : List Byte} {i : Nat} {v : Byte} (hi : 0 < i) (hlast : i < (wireOf F).length - 1)
    (hesc : byteAt (wireOf F) i ≠ byteESC) (hprev : byteAt (wireOf F) (i - 1) ≠ byteESC) (hv : stuff v = [v]) :
    ∃ A B, F = A ++ byteAt (wireOf F) i :: B ∧ (wireOf F).set i v = wireOf (A ++ v :: B) := by
  obtain ⟨k, rfl⟩ := Nat.exists_eq_add_of_le' hi
  have hk : k < (F.flatMap stuff).length := by
    simp only [wireOf, List.length_append, List.length_singleton] at hlast
    omega
  have hinner : byteAt (wireOf F) (k + 1) = byteAt (F.flatMap stuff) k :=
    List.getD_append (byteEND :: F.flatMap stuff) _ _ _ (Nat.succ_lt_succ hk)
  have hbefore : byteAt (wireOf F) k = byteAt (byteEND :: F.flatMap stuff) k :=
    List.getD_append (byteEND :: F.flatMap stuff) _ _ _ (Nat.lt_succ_of_lt hk)
  rw [hinner] at hesc ⊢
  obtain ⟨A, B, hF, hset⟩ := flatMap_stuff_set hk hesc (hbefore ▸ hprev) hv
  refine ⟨A, B, hF, ?_⟩
  simp only [wireOf, List.cons_append, List.nil_append, List.set_cons_succ, List.set_append_left _ _ hk, hset]

/-- R162: a long enough frame with a bad CRC has one outcome. -/
theorem IsOutcomeOf.eq_rejCrc {F : List Byte} {x : Output} (h : IsOutcomeOf F x) (hlen : minFrame ≤ F.length)
    (hcrc : crc16 F ≠ 0) : x = .event (.rejCrc (crc16 F) F) := by
  obtain ⟨req, s, v, hval⟩ := h
  rw [validateAndRoute_of_badCrc hlen hcrc] at hval
  simpa [reject, State.log, State.emit, eq_comm] using congrArg (fun r => r.2.outputs) hval

end Sys2Proof.Machine

namespace Sys2Proof.Claims

open Sys2Proof.Machine

/-- Settles O30, by induction on the packets: the first END leads to INPKT with an empty accumulator, where every
frame leaves the decoder. -/
theorem encodedPacketsDecodeToTheirFrames : Obligations.EncodedPacketsDecodeToTheirFrames := by
  intro Ps rs s hne hs hlen hPs hrs
  obtain ⟨P, Qs, rfl⟩ := List.exists_cons_of_ne_nil hne
  obtain ⟨hP, hQs⟩ := List.forall_mem_cons.mp hPs
  have h : Holds s.cfg s.decState [] s := ⟨hs, rfl, rfl, accHolds_nil hlen⟩
  have hread : Reads (wireOf (frameOf P) ++ Qs.flatMap fun Q => wireOf (frameOf Q)) s fun t o =>
      Holds s.cfg .inPkt [] t ∧ ∃ p, FramesOnly ((P :: Qs).map frameOf) p ∧ o = openingOutput s.decState ++ p := by
    refine (h.reads_wireOf_frameOf hP).append fun t o hto => ?_
    obtain ⟨p, ht, hp, rfl⟩ := hto
    exact (ht.reads_packets hQs).mono fun u q hq => ⟨hq.1, p ++ q, hp.append hq.2, List.append_assoc ..⟩
  obtain ⟨t, o, ht, hout, hholds, p, ⟨hframes, hviol⟩, rfl⟩ := hread rs hrs
  refine ⟨t, _, ht, hout, hholds.dec, hholds.accLen_eq, ?_, ?_, fun hd => ?_⟩
  · rw [List.filterMap_append, hframes, openingOutput]
    split <;> rfl
  · rw [List.filter_append, hviol, openingOutput]
    split <;> rfl
  · rw [openingOutput, if_pos hd]
    rfl

/-- Settles O31: the changed wire frame is that of a frame with one byte changed, whose CRC cannot be zero too. -/
theorem oneCorruptedByteCostsOneFrame : Obligations.OneCorruptedByteCostsOneFrame := by
  intro P i v rs s hs hd hlen hmin hmax W hi hlast hesc hprev hne hvEnd hvEsc hrs
  obtain ⟨A, B, hF, hset⟩ := wireOf_set hi hlast hesc hprev (stuff_of_data hvEnd hvEsc)
  have hG : (A ++ v :: B).length = P.length + 2 := by
    rw [← length_frameOf, hF]
    simp
  have hcrc : crc16 (A ++ v :: B) ≠ 0 := by
    rw [← crc16_frameOf P, hF]
    exact crc16_ne_of_changed hne
  have h : Holds s.cfg .inPkt [] s := ⟨hs, rfl, hd, accHolds_nil hlen⟩
  have hread := h.reads_wireOf (F := A ++ v :: B) (by simp) (by omega)
  obtain ⟨t, _, ht, hout, _, ⟨hholds, x, hx, rfl⟩, rfl⟩ := hread rs (hrs.trans hset)
  rw [hx.eq_rejCrc (hG.symm ▸ Nat.add_le_add_right hmin 2) hcrc] at hout
  exact ⟨t, A ++ v :: B, _, ht, hout, hG, hholds.dec, hholds.accLen_eq⟩

end Sys2Proof.Claims

/-! The statements of 43_parser.md: PARSE and the received command byte rows check a frame in the order of R160 and
then route it, and BIND sets the bit that routing reads. -/

namespace Sys2Proof.Machine

open Sys2Proof.Claims

/-! ## The fields of a frame (R163 to R165)

The claims write the fields by arithmetic, the machine as fields of a bit vector. -/

theorem opOf_toNat (s : State) (F : List Byte) : (s.cfg.layout.opOf (byteAt F 0)).toNat = opNumber s F := by
  rw [CmdLayout.opOf, BitVec.extractLsb'_toNat, Nat.shiftRight_eq_div_pow]
  rfl

theorem ofNat_opNumber (s : State) (F : List Byte) :
    BitVec.ofNat 2 (opNumber s F) = s.cfg.layout.opOf (byteAt F 0) := by
  rw [← opOf_toNat, BitVec.ofNat_toNat, BitVec.setWidth_eq]

theorem opNumber_eq_iff {s : State} {F : List Byte} {op : BitVec 2} :
    opNumber s F = op.toNat ↔ s.cfg.layout.opOf (byteAt F 0) = op := by
  rw [← opOf_toNat, BitVec.toNat_inj]

theorem opAccepted_iff {s : State} {F : List Byte} :
    OpAccepted s F ↔ opOk s.cfg (s.cfg.layout.opOf (byteAt F 0)) = true := by
  simp only [OpAccepted, opNumber_eq_iff, opOk, Bool.or_eq_true, Bool.and_eq_true, beq_iff_eq, or_assoc]

theorem coreIndex_toNat (F : List Byte) : (coreIndex (byteAt F 1)).toNat = coreNumber F := by
  rw [coreIndex, BitVec.extractLsb'_toNat, Nat.shiftRight_zero]
  rfl

theorem ofNat_coreNumber (F : List Byte) : BitVec.ofNat 4 (coreNumber F) = coreIndex (byteAt F 1) := by
  rw [← coreIndex_toNat, BitVec.ofNat_toNat, BitVec.setWidth_eq]

theorem readOk_iff {F : List Byte} {req : Byte} : readOk F req = true ↔ ReadConsistent F req := by
  simp only [readOk, ReadConsistent, Bool.and_eq_true, decide_eq_true_eq]
  rfl

theorem opOk_opRead (c : Config) : opOk c c.layout.opRead = true := by simp [opOk]

theorem opOk_opWrite (c : Config) : opOk c c.layout.opWrite = true := by simp [opOk]

/-- R163: ACCEPT_WRRD decides on the operation WRRD. -/
theorem opOk_opWrrd {c : Config} (hc : c.wf) : opOk c c.layout.opWrrd = c.acceptWrrd := by
  obtain ⟨-, -, -, -, -, -, -, hread, hwrite⟩ := hc
  simp [opOk, hread.symm, hwrite.symm]

/-! ## Steps 4 and 5, and routing (R164 to R169) -/

/-- R168, R169: what is done with an accepted frame, by the bit of its core. -/
theorem replyVerdict_accept (F : List Byte) (s : State) :
    replyVerdict (accept F (coreIndex (byteAt F 1)) s) = routed s F := by
  have hlen : (stripCrc F).length = F.length - 2 := by simp [stripCrc]
  simp only [accept, routed, State.isBound, coreIndex_toNat, ofNat_coreNumber]
  split_ifs
  · rw [State.deliver, hlen]
    rfl
  · rfl

theorem replyVerdict_withValidCore_of_invalid {F : List Byte} {s : State} (h : s.cfg.numCores ≤ coreNumber F)
    (k : Nibble → Verdict × State) :
    replyVerdict (withValidCore F s k) = rejected s .core (.rejCore (BitVec.ofNat 4 (coreNumber F)) F) := by
  rw [← coreIndex_toNat] at h
  rw [withValidCore, if_neg (not_lt.mpr h), ofNat_coreNumber]
  rfl

theorem withValidCore_of_valid {F : List Byte} {s : State} (h : coreNumber F < s.cfg.numCores)
    (k : Nibble → Verdict × State) : withValidCore F s k = k (coreIndex (byteAt F 1)) := by
  rw [← coreIndex_toNat] at h
  rw [withValidCore, if_pos h]

/-- Step 5 against this requested count, then acceptance (R165, R168): what READ asks for after step 4. -/
def readChecked (F : List Byte) (req : Byte) (s : State) (c : Nibble) : Verdict × State :=
  if readOk F req = true then accept F c s else reject .readCount (.rejReadCount (byteAt F 3) F) s

theorem replyVerdict_read_of_inconsistent {F : List Byte} {req : Byte} {s : State}
    (hc : coreNumber F < s.cfg.numCores) (h : ¬ ReadConsistent F req) :
    replyVerdict (withValidCore F s (readChecked F req s)) =
      rejected s .readCount (.rejReadCount (byteAt F 3) F) := by
  rw [withValidCore_of_valid hc, readChecked, if_neg (mt readOk_iff.mp h)]
  rfl

theorem replyVerdict_read_of_consistent {F : List Byte} {req : Byte} {s : State}
    (hc : coreNumber F < s.cfg.numCores) (h : ReadConsistent F req) :
    replyVerdict (withValidCore F s (readChecked F req s)) = routed s F := by
  rw [withValidCore_of_valid hc, readChecked, if_pos (readOk_iff.mpr h), replyVerdict_accept]

theorem replyVerdict_write_of_valid {F : List Byte} {s : State} (hc : coreNumber F < s.cfg.numCores) :
    replyVerdict (withValidCore F s fun c => accept F c s) = routed s F := by
  rw [withValidCore_of_valid hc, replyVerdict_accept]

/-! ## The validator on a whole frame with a zero CRC, by its operation -/

section
variable {F : List Byte} {s : State} (hlen : minFrame ≤ F.length) (hcrc : crc16 F = 0) (req : Byte)
include hlen hcrc

theorem validateAndRoute_of_read (hop : s.cfg.layout.opOf (byteAt F 0) = s.cfg.layout.opRead) :
    validateAndRoute F req s = withValidCore F s (readChecked F req s) := by
  rw [validateAndRoute, if_neg (not_lt.mpr hlen), if_neg (not_not.mpr hcrc)]
  simp only [hop, opOk_opRead, withValidCore, readChecked, ite_not, true_and, Bool.true_eq_false, if_false]
  cases readOk F req <;> rfl

theorem validateAndRoute_of_notRead (hok : opOk s.cfg (s.cfg.layout.opOf (byteAt F 0)) = true)
    (hop : s.cfg.layout.opOf (byteAt F 0) ≠ s.cfg.layout.opRead) :
    validateAndRoute F req s = withValidCore F s fun c => accept F c s := by
  rw [validateAndRoute, if_neg (not_lt.mpr hlen), if_neg (not_not.mpr hcrc)]
  simp only [hok, hop, withValidCore, ite_not, false_and, Bool.true_eq_false, if_false]

end

/-! ## A frame judged (R160, R170)

PARSE and the command byte rows all are `judge` of their frame, which makes the checks of steps 1 and 2, and differ
in what follows those. -/

theorem judge_of_running {F : List Byte} {s : State} (hs : s.halted = false) (hle : F.length ≤ s.cfg.maxPayload + 6)
    (r : Verdict × State) : judge F s r = .next (replyVerdict ((integrityReject F s).getD r)) := by
  rw [← rxCap_eq] at hle
  rw [judge, if_neg (not_lt.mpr hle), State.running_of_not_halted _ _ hs]

theorem judge_of_short {F : List Byte} {s : State} (hs : s.halted = false) (h : F.length < 6) (r : Verdict × State) :
    judge F s r = .next (rejected s .short (.rejShort F.length F)) := by
  rw [judge_of_running hs (by omega), integrityReject, if_pos h]
  rfl

theorem judge_of_badCrc {F : List Byte} {s : State} (hs : s.halted = false) (hle : F.length ≤ s.cfg.maxPayload + 6)
    (hlen : 6 ≤ F.length) (h : crc16 F ≠ 0) (r : Verdict × State) :
    judge F s r = .next (rejected s .crc (.rejCrc (crc16 F) F)) := by
  rw [judge_of_running hs hle, integrityReject, if_neg (not_lt.mpr hlen), if_pos h]
  rfl

theorem judge_of_intact {F : List Byte} {s : State} (h : Intact s F) (r : Verdict × State) :
    judge F s r = .next (replyVerdict r) := by
  rw [judge_of_running h.running h.lenLe, integrityReject, if_neg (not_lt.mpr h.lenGe), if_neg (not_not.mpr h.crcZero)]
  rfl

/-- What follows steps 1 and 2 matters only for a frame that they let pass. -/
theorem integrityReject_congr {F : List Byte} {s : State} {r r' : Verdict × State}
    (h : minFrame ≤ F.length → crc16 F = 0 → r = r') :
    (integrityReject F s).getD r = (integrityReject F s).getD r' := by
  unfold integrityReject
  split_ifs with hshort hbad
  · rfl
  · rfl
  · exact h (not_lt.mp hshort) (not_not.mp hbad)

theorem judge_congr {F : List Byte} {s : State} {r r' : Verdict × State}
    (h : minFrame ≤ F.length → crc16 F = 0 → r = r') : judge F s r = judge F s r' := by
  rw [judge, judge, integrityReject_congr h]

/-- R160: steps 1 and 2 before the validator are its own once more. -/
theorem integrityReject_validateAndRoute (F : List Byte) (req : Byte) (s : State) :
    (integrityReject F s).getD (validateAndRoute F req s) = validateAndRoute F req s := by
  unfold integrityReject
  split_ifs with hshort hbad
  · exact (validateAndRoute_of_short hshort req s).symm
  · exact (validateAndRoute_of_badCrc (not_lt.mp hshort) hbad req s).symm
  · rfl

/-- R170: PARSE judges the frame on D. -/
theorem exec_parse_eq_judge (req : Byte) (s : State) :
    exec (.parse req) s = judge s.port.data s (validateAndRoute s.port.data req s) := by
  rw [judge, integrityReject_validateAndRoute]
  rfl

theorem exec_parse_of_intact {s : State} (h : Intact s s.port.data) (req : Byte) :
    exec (.parse req) s = .next (replyVerdict (validateAndRoute s.port.data req s)) := by
  rw [exec_parse_eq_judge, judge_of_intact h]

/-! ## The command byte rows judge their frame (R75, log entry 7) -/

section
variable {sentinel : Nibble} {auto inc : Bool} {s : State} {F : List Byte}

theorem exec_cmdNop_eq_judge (hF : FrameOfRow (.cmdNop sentinel auto inc) s F) :
    exec (.cmdNop sentinel auto inc) s = judge F s (rejectOpcode s.cfg.layout.opNop F s) := by
  obtain ⟨_, ⟨⟩, rfl⟩ := hF
  rfl

theorem exec_cmdRead_eq_judge (hF : FrameOfRow (.cmdRead sentinel auto inc) s F) :
    exec (.cmdRead sentinel auto inc) s = judge F s (withValidCore F s (readChecked F s.port.req s)) := by
  obtain ⟨_, ⟨⟩, rfl⟩ := hF
  rfl

theorem exec_cmdWrite_eq_judge (hF : FrameOfRow (.cmdWrite sentinel auto inc) s F) :
    exec (.cmdWrite sentinel auto inc) s = judge F s (withValidCore F s fun c => accept F c s) := by
  obtain ⟨_, ⟨⟩, rfl⟩ := hF
  rfl

theorem exec_cmdWrrd_eq_judge (hF : FrameOfRow (.cmdWrrd sentinel auto inc) s F) :
    exec (.cmdWrrd sentinel auto inc) s = judge F s (if s.cfg.acceptWrrd = true
      then withValidCore F s fun c => accept F c s else rejectOpcode s.cfg.layout.opWrrd F s) := by
  obtain ⟨_, ⟨⟩, rfl⟩ := hF
  rfl

/-- Under any layout a command byte is judged by some row, with a frame of its own. -/
theorem exists_frameOfRow_decodePktCmd8 (L : CmdLayout) (b : Byte) (s : State) :
    ∃ F, FrameOfRow (decodePktCmd8 L b) s F := by
  unfold decodePktCmd8
  dsimp only
  split_ifs <;> exact ⟨_, _, rfl, rfl⟩

/-- R160: where the operations have different numbers, a row is the validator on its frame, with the drawn requested
count. -/
theorem exec_frameOfRow_eq_judge {i : Instr} (hc : s.cfg.wf) (hF : FrameOfRow i s F) :
    exec i s = judge F s (validateAndRoute F s.port.req s) := by
  have hL : s.cfg.layout.wf := hc.2.2
  have hop : ∀ {sentinel auto inc op}, F = s.cfg.layout.cmdByte sentinel auto inc op :: s.port.data →
      s.cfg.layout.opOf (byteAt F 0) = op := by
    rintro sentinel auto inc op rfl
    exact CmdLayout.opOf_cmdByte hL sentinel auto inc op
  have ⟨b, hb, hcons⟩ := hF
  cases i <;> cases hb
  case cmdNop =>
    replace hop := hop hcons
    rw [exec_cmdNop_eq_judge hF]
    refine judge_congr fun hlen hcrc => ?_
    rw [validateAndRoute_of_badOp hlen hcrc (by rw [hop, opOk_opNop hc]), hop]
  case cmdRead =>
    rw [exec_cmdRead_eq_judge hF]
    exact judge_congr fun hlen hcrc => (validateAndRoute_of_read hlen hcrc _ (hop hcons)).symm
  case cmdWrite =>
    replace hop := hop hcons
    obtain ⟨-, -, -, -, hreadWrite, -⟩ := hL
    rw [exec_cmdWrite_eq_judge hF]
    refine judge_congr fun hlen hcrc => (validateAndRoute_of_notRead hlen hcrc _ ?_ ?_).symm
    · rw [hop, opOk_opWrite]
    · rw [hop]; exact hreadWrite.symm
  case cmdWrrd =>
    replace hop := hop hcons
    have hok := opOk_opWrrd hc
    obtain ⟨-, -, -, -, -, hreadWrrd, -⟩ := hL
    rw [exec_cmdWrrd_eq_judge hF]
    refine judge_congr fun hlen hcrc => ?_
    split_ifs with haccept
    · refine (validateAndRoute_of_notRead hlen hcrc _ ?_ ?_).symm
      · rw [hop, hok, haccept]
      · rw [hop]; exact hreadWrrd.symm
    · rw [validateAndRoute_of_badOp hlen hcrc (by rw [hop, hok, Bool.eq_false_of_not_eq_true haccept]), hop]

end

/-! ## The validator looks at no port but through its operands (R160) -/

/-- The state with these operands on the ports. -/
def State.withPort (p : Operands) (s : State) : State := { s with port := p }

/-- These operands put on the ports of an answer's next state. -/
def answerWithPort (p : Operands) : Answer → Answer
  | .next t => .next (t.withPort p)
  | .fault f => .fault f
  | .refused r => .refused r

section
variable (p : Operands) (s : State) (F : List Byte)

theorem accept_withPort (c : Nibble) :
    accept F c (s.withPort p) = (accept F c s).map id (State.withPort p) :=
  ite_eq_apply_ite (Prod.map id (State.withPort p)) rfl rfl

theorem validateAndRoute_withPort (req : Byte) :
    validateAndRoute F req (s.withPort p) = (validateAndRoute F req s).map id (State.withPort p) := by
  refine ite_eq_apply_ite (Prod.map id (State.withPort p)) rfl ?_
  refine ite_eq_apply_ite (Prod.map id (State.withPort p)) rfl ?_
  refine ite_eq_apply_ite (Prod.map id (State.withPort p)) rfl ?_
  refine ite_eq_apply_ite (Prod.map id (State.withPort p)) rfl ?_
  exact ite_eq_apply_ite (Prod.map id (State.withPort p)) rfl (accept_withPort p s F _)

theorem judge_validateAndRoute_withPort (req : Byte) :
    judge F (s.withPort p) (validateAndRoute F req (s.withPort p)) =
      answerWithPort p (judge F s (validateAndRoute F req s)) := by
  rw [judge, judge, integrityReject_validateAndRoute, integrityReject_validateAndRoute, validateAndRoute_withPort]
  exact ite_eq_apply_ite (answerWithPort p) rfl (ite_eq_apply_ite (answerWithPort p) rfl rfl)

end

/-! ## The verdict alone (R172) -/

theorem resultPort_replyVerdict (r : Verdict × State) : (replyVerdict r).resultPort = some (.verdict r.1) := by
  simp [replyVerdict, State.reply, State.resultPort]

theorem accept_verdict_congr (F G : List Byte) (c : Nibble) (s : State) : (accept F c s).1 = (accept G c s).1 := by
  unfold accept
  split_ifs <;> rfl

section
variable {F G : List Byte} {req : Byte} {s : State}

theorem readChecked_verdict_congr (h : readOk F req = readOk G req) (c : Nibble) :
    (readChecked F req s c).1 = (readChecked G req s c).1 := by
  rw [readChecked, readChecked, h]
  split_ifs
  · exact accept_verdict_congr F G c s
  · rfl

theorem withValidCore_verdict_congr {k k' : Nibble → Verdict × State} (hcore : coreNumber F = coreNumber G)
    (hk : ∀ c, (k c).1 = (k' c).1) : (withValidCore F s k).1 = (withValidCore G s k').1 := by
  simp only [withValidCore, ← ofNat_coreNumber, hcore]
  split_ifs
  · exact hk _
  · rfl

/-- R172: the verdict looks at OP, at the core index and, for a READ, at the consistency of its counts. -/
theorem validateAndRoute_verdict_congr (hF : Intact s F) (hG : Intact s G) (hop : opNumber s F = opNumber s G)
    (hcore : coreNumber F = coreNumber G)
    (hread : opNumber s G = s.cfg.layout.opRead.toNat → readOk F req = readOk G req) :
    (validateAndRoute F req s).1 = (validateAndRoute G req s).1 := by
  have hopOf : s.cfg.layout.opOf (byteAt F 0) = s.cfg.layout.opOf (byteAt G 0) := by
    rw [← ofNat_opNumber, hop, ofNat_opNumber]
  by_cases hok : opOk s.cfg (s.cfg.layout.opOf (byteAt G 0)) = true
  · by_cases hisRead : s.cfg.layout.opOf (byteAt G 0) = s.cfg.layout.opRead
    · rw [validateAndRoute_of_read hF.lenGe hF.crcZero req (hopOf.trans hisRead),
        validateAndRoute_of_read hG.lenGe hG.crcZero req hisRead]
      exact withValidCore_verdict_congr hcore (readChecked_verdict_congr (hread (opNumber_eq_iff.mpr hisRead)))
    · rw [validateAndRoute_of_notRead hF.lenGe hF.crcZero req (hopOf ▸ hok) (hopOf ▸ hisRead),
        validateAndRoute_of_notRead hG.lenGe hG.crcZero req hok hisRead]
      exact withValidCore_verdict_congr hcore fun c => accept_verdict_congr F G c s
  · have hbad := Bool.eq_false_of_not_eq_true hok
    rw [validateAndRoute_of_badOp hF.lenGe hF.crcZero (hopOf ▸ hbad),
      validateAndRoute_of_badOp hG.lenGe hG.crcZero hbad]
    rfl

end

/-! ## One outcome for each frame (R173) -/

/-- A judgement that puts out one outcome and changes nothing else. -/
def OneOutcome (s : State) (r : Verdict × State) : Prop := ∃ o v, Output.isOutcome o = true ∧ r = (v, s.emit [o])

theorem oneOutcome_reject (code : RejectCode) {e : Event} (he : e.kind = .validation) (s : State) :
    OneOutcome s (reject code e s) :=
  ⟨.event e, .reject code, by simp [Output.isOutcome, he], rfl⟩

theorem oneOutcome_accept (F : List Byte) (c : Nibble) (s : State) : OneOutcome s (accept F c s) := by
  unfold accept
  split_ifs
  · exact ⟨_, _, rfl, rfl⟩
  · exact ⟨_, _, rfl, rfl⟩

theorem oneOutcome_readChecked (F : List Byte) (req : Byte) (s : State) (c : Nibble) :
    OneOutcome s (readChecked F req s c) := by
  unfold readChecked
  split_ifs
  · exact oneOutcome_accept F c s
  · exact oneOutcome_reject .readCount rfl s

theorem oneOutcome_withValidCore {F : List Byte} {s : State} {k : Nibble → Verdict × State}
    (hk : ∀ c, OneOutcome s (k c)) : OneOutcome s (withValidCore F s k) := by
  unfold withValidCore
  dsimp only
  split_ifs
  · exact hk _
  · exact oneOutcome_reject .core rfl s

theorem oneOutcome_validateAndRoute (F : List Byte) (req : Byte) (s : State) :
    OneOutcome s (validateAndRoute F req s) := by
  obtain ⟨v, o, heq, -⟩ := validateAndRoute_cases F req s
  exact ⟨o, v, IsOutcomeOf.isOutcome ⟨req, s, v, heq⟩, heq⟩

theorem OneOutcome.getD_integrityReject {s : State} {r : Verdict × State} (h : OneOutcome s r) (F : List Byte) :
    OneOutcome s ((integrityReject F s).getD r) := by
  unfold integrityReject
  split_ifs
  · exact oneOutcome_reject .short rfl s
  · exact oneOutcome_reject .crc rfl s
  · exact h

theorem OneOutcome.judge_next {F : List Byte} {s t : State} {r : Verdict × State} (hr : OneOutcome s r)
    (h : judge F s r = .next t) : ∃ o v, Output.isOutcome o = true ∧ t = answers s [o] (some (.verdict v)) := by
  unfold judge at h
  split_ifs at h
  obtain ⟨o, v, ho, heq⟩ := hr.getD_integrityReject F
  cases (State.running_next h).2
  exact ⟨o, v, ho, by rw [heq, replyVerdict_emit]⟩

/-- R160, R173: every command byte row judges its frame, and leads to one outcome. -/
theorem exists_exec_eq_judge {i : Instr} {s : State} {F : List Byte} (hF : FrameOfRow i s F) :
    ∃ r, OneOutcome s r ∧ exec i s = judge F s r := by
  have ⟨b, hb, _⟩ := hF
  cases i <;> cases hb
  case cmdNop => exact ⟨_, oneOutcome_reject .opcode rfl s, exec_cmdNop_eq_judge hF⟩
  case cmdRead =>
    exact ⟨_, oneOutcome_withValidCore fun c => oneOutcome_readChecked F _ s c, exec_cmdRead_eq_judge hF⟩
  case cmdWrite => exact ⟨_, oneOutcome_withValidCore fun c => oneOutcome_accept F c s, exec_cmdWrite_eq_judge hF⟩
  case cmdWrrd =>
    refine ⟨_, ?_, exec_cmdWrrd_eq_judge hF⟩
    split_ifs
    · exact oneOutcome_withValidCore fun c => oneOutcome_accept F c s
    · exact oneOutcome_reject .opcode rfl s

/-! ## BIND (R171) -/

theorem bindCore_getLsbD (core : Nibble) (s : State) (c : Nat) :
    (s.bindCore core).coreBound.getLsbD c = (decide (c = core.toNat) || s.coreBound.getLsbD c) := by
  have hcore : core.toNat < 16 := core.isLt
  rw [State.bindCore_coreBound, BitVec.getLsbD_or, BitVec.getLsbD_twoPow, Bool.or_comm]
  simp [hcore, eq_comm]

theorem bindCore_coreBound_of_bound {core : Nibble} {s : State} (h : s.coreBound.getLsbD core.toNat = true) :
    (s.bindCore core).coreBound = s.coreBound := by
  apply BitVec.eq_of_getLsbD_eq
  intro c _
  rw [bindCore_getLsbD]
  by_cases hc : c = core.toNat
  · rw [hc, h, Bool.or_true]
  · rw [decide_eq_false hc, Bool.false_or]

end Sys2Proof.Machine

namespace Sys2Proof.Claims

open Sys2Proof.Machine

/-- Settles O34: step 3 rejects what `op_ok` does not let pass. -/
theorem parseRejectsUnacceptedOperations : Obligations.ParseRejectsUnacceptedOperations := by
  intro req s hF hop
  have hbad := Bool.eq_false_of_not_eq_true (mt opAccepted_iff.mpr hop)
  rw [exec_parse_of_intact hF, validateAndRoute_of_badOp hF.lenGe hF.crcZero hbad, ofNat_opNumber]
  rfl

/-- Settles O35: a READ and the other accepted operations come to step 4 alike. -/
theorem parseRejectsInvalidCores : Obligations.ParseRejectsInvalidCores := by
  intro req s hF hop hc
  rw [exec_parse_of_intact hF]
  by_cases hread : s.cfg.layout.opOf (byteAt s.port.data 0) = s.cfg.layout.opRead
  · rw [validateAndRoute_of_read hF.lenGe hF.crcZero req hread, replyVerdict_withValidCore_of_invalid hc]
  · rw [validateAndRoute_of_notRead hF.lenGe hF.crcZero req (opAccepted_iff.mp hop) hread,
      replyVerdict_withValidCore_of_invalid hc]

/-- Settles O36: a READ for a valid core comes to step 5. -/
theorem parseRejectsInconsistentReads : Obligations.ParseRejectsInconsistentReads := by
  intro req s hF hread hc hbad
  rw [exec_parse_of_intact hF, validateAndRoute_of_read hF.lenGe hF.crcZero req (opNumber_eq_iff.mp hread),
    replyVerdict_read_of_inconsistent hc hbad]

/-- Settles O37: a READ is routed after step 5, every other accepted operation after step 4. -/
theorem parseRoutesAcceptedFrames : Obligations.ParseRoutesAcceptedFrames := by
  intro req s hF hop hc hcount
  rw [exec_parse_of_intact hF]
  by_cases hread : s.cfg.layout.opOf (byteAt s.port.data 0) = s.cfg.layout.opRead
  · rw [validateAndRoute_of_read hF.lenGe hF.crcZero req hread,
      replyVerdict_read_of_consistent hc (hcount (opNumber_eq_iff.mpr hread))]
  · rw [validateAndRoute_of_notRead hF.lenGe hF.crcZero req (opAccepted_iff.mp hop) hread,
      replyVerdict_write_of_valid hc]

/-- Settles O38, from O37: in a well-formed layout WRITE is not READ, so that no count is asked for. -/
theorem writeResponsesAreNotReadChecked : Obligations.WriteResponsesAreNotReadChecked := by
  intro req s hcfg hF hwrite hc
  obtain ⟨-, -, -, -, -, -, hne, -⟩ := hcfg
  refine parseRoutesAcceptedFrames req s hF (.inr (.inl hwrite)) hc fun hread => ?_
  exact absurd (BitVec.eq_of_toNat_eq (hread.symm.trans hwrite)) hne

/-- Settles O39: the verdict looks at neither the ports nor the unchecked fields of the frame. -/
theorem verdictIgnoresUncheckedFields : Obligations.VerdictIgnoresUncheckedFields := by
  intro req s t G hF hG hlen hop hcore hcount ht
  let p : Operands := { s.port with data := G }
  have hGp : Intact (s.withPort p) G := ⟨hG.running, hG.lenLe, hG.lenGe, hG.crcZero⟩
  have hread : opNumber s s.port.data = s.cfg.layout.opRead.toNat → readOk G req = readOk s.port.data req := by
    intro h
    obtain ⟨hbyte, hrest⟩ := hcount (hop.trans h)
    rw [hlen] at hrest
    simp only [readOk, hlen, hbyte, hrest]
  have hverdict := validateAndRoute_verdict_congr hG hF hop hcore hread
  refine ⟨_, exec_parse_of_intact (s := s.withPort p) hGp req, ?_⟩
  rw [exec_parse_of_intact hF] at ht
  cases ht
  rw [resultPort_replyVerdict, resultPort_replyVerdict, validateAndRoute_withPort, Prod.map_fst, id, ← hverdict]
  rfl

/-- Settles O41: both judge one frame with the validator, which changes nothing but outputs and results. -/
theorem commandByteRowsActAsParse : Obligations.CommandByteRowsActAsParse := by
  intro b s hc i u
  have hF : FrameOfRow i s (b :: s.port.data) := ⟨b, encodeWord_decodePktCmd8 hc.2.2 b, rfl⟩
  have hexec : exec i s = answerWithPort s.port (exec (.parse s.port.req) u) := by
    rw [exec_frameOfRow_eq_judge hc hF, exec_parse_eq_judge]
    exact judge_validateAndRoute_withPort s.port u (b :: s.port.data) s.port.req
  rw [hexec]
  refine ⟨fun t ht => ?_, fun f hf => ?_, fun r hr => ?_⟩
  · rw [ht]; rfl
  · rw [hf]; rfl
  · rw [hr]; rfl

/-- Settles O44: a row's frame passes steps 1 and 2, then step 4, then step 5. -/
theorem readRowIsCheckedThenRouted : Obligations.ReadRowIsCheckedThenRouted := by
  intro sentinel auto inc s F hF hrow i
  have hexec : exec i s = .next (replyVerdict (withValidCore F s (readChecked F s.port.req s))) := by
    rw [exec_cmdRead_eq_judge hrow, judge_of_intact hF]
  rw [hexec]
  refine ⟨fun hc => ?_, fun hc hbad => ?_, fun hc hok => ?_⟩
  · rw [replyVerdict_withValidCore_of_invalid hc]
  · rw [replyVerdict_read_of_inconsistent hc hbad]
  · rw [replyVerdict_read_of_consistent hc hok]

/-- Settles O45: an accepted WRRD is judged as a WRITE is. -/
theorem writeAndWrrdRowsAreRouted : Obligations.WriteAndWrrdRowsAreRouted := by
  intro sentinel auto inc i s F hF hi hrow
  have hexec : exec i s = .next (replyVerdict (withValidCore F s fun c => accept F c s)) := by
    rcases hi with rfl | ⟨rfl, haccept⟩
    · rw [exec_cmdWrite_eq_judge hrow, judge_of_intact hF]
    · rw [exec_cmdWrrd_eq_judge hrow, judge_of_intact hF, if_pos haccept]
  rw [hexec]
  refine ⟨fun hc => ?_, fun hc => ?_⟩
  · rw [replyVerdict_withValidCore_of_invalid hc]
  · rw [replyVerdict_write_of_valid hc]

/-- Settles O46: whatever follows steps 1 and 2 leads to one outcome, as a rejection by them does. -/
theorem oneOutcomePerJudgedFrame : Obligations.OneOutcomePerJudgedFrame := by
  rintro i s t (⟨req, rfl⟩ | ⟨b, rfl⟩) h
  · rw [exec_parse_eq_judge] at h
    exact (oneOutcome_validateAndRoute _ req s).judge_next h
  · obtain ⟨F, hF⟩ := exists_frameOfRow_decodePktCmd8 s.cfg.layout b s
    obtain ⟨r, hr, hexec⟩ := exists_exec_eq_judge hF
    exact hr.judge_next (hexec.symm.trans h)

/-- Settles O47: the bit is joined to those that stand. -/
theorem bindSetsOneBit : Obligations.BindSetsOneBit := by
  intro core s hs hcore
  have hexec : exec (.bind core) s = .next ((s.bindCore core).reply none) := by
    rw [exec, execBind, if_pos hcore, State.running_of_not_halted _ _ hs]
  refine ⟨_, hexec, ?_, bindCore_getLsbD core s, bindCore_coreBound_of_bound⟩
  rw [reply_eq_answers]
  rfl

/-- Settles O32: step 1 of the judged frame on D, which is below RX_CAP. -/
theorem parseRejectsShortFrames : Obligations.ParseRejectsShortFrames := by
  intro req s hs hshort
  rw [exec_parse_eq_judge, judge_of_short hs hshort]

/-- Settles O33: step 2 of the judged frame on D. -/
theorem parseRejectsBadCrc : Obligations.ParseRejectsBadCrc := by
  intro req s hs hlen hle hbad
  rw [exec_parse_eq_judge, judge_of_badCrc hs hle hlen hbad]

/-- Settles O42: every row judges its frame, and the judgement begins with steps 1 and 2. -/
theorem commandByteRowsRejectDamagedFrames : Obligations.CommandByteRowsRejectDamagedFrames := by
  intro i s F hF hs hle
  obtain ⟨r, -, hexec⟩ := exists_exec_eq_judge hF
  rw [hexec]
  exact ⟨fun hshort => judge_of_short hs hshort r, fun hlen hbad => judge_of_badCrc hs hle hlen hbad r⟩

/-- Settles O43: on an intact frame both rows come to the rejection of step 3. -/
theorem nopAndUnacceptedWrrdAreRejected : Obligations.NopAndUnacceptedWrrdAreRejected := by
  intro sentinel auto inc s F hF
  refine ⟨fun hrow => ?_, fun hrow haccept => ?_⟩
  · rw [exec_cmdNop_eq_judge hrow, judge_of_intact hF]
    rfl
  · rw [exec_cmdWrrd_eq_judge hrow, judge_of_intact hF, haccept, if_neg Bool.false_ne_true]
    rfl

end Sys2Proof.Claims

/-! The statements of 60_exceptions.md: where the invariant holds, the check of HALTED is the one fault of an operation;
what one received byte puts out; and the codes of the events. -/

namespace Sys2Proof.Machine

open Sys2Proof.Claims

/-! ## The check of HALTED (R207) -/

/-- An answer that is a refusal, or an effect behind the check of HALTED; the effect completes where ACC_LEN is in its
range. -/
def ChecksHalted (s : State) (a : Answer) : Prop :=
  (∃ r, a = .refused r) ∨ ∃ k, a = s.running k ∧ (s.accLen ≤ rxCap s.cfg → ∃ t, k = .next t)

section
variable {s : State} {a : Answer}

theorem checksHalted_refused (r : Refusal) : ChecksHalted s (.refused r) := .inl ⟨r, rfl⟩

theorem checksHalted_running {k : Answer} (h : ∃ t, k = .next t) : ChecksHalted s (s.running k) :=
  .inr ⟨k, rfl, fun _ => h⟩

/-- The range of an operand is checked first (R66, log entry 5). -/
theorem checksHalted_ite {p : Prop} [Decidable p] {b : Answer} (ha : ChecksHalted s a) (hb : ChecksHalted s b) :
    ChecksHalted s (if p then a else b) := by
  split
  · exact ha
  · exact hb

theorem checksHalted_judge (F : List Byte) (v : Verdict × State) : ChecksHalted s (judge F s v) :=
  checksHalted_ite (checksHalted_refused _) (checksHalted_running ⟨_, rfl⟩)

theorem checksHalted_byteFeed {i : Instr} (hi : isByteFeed i = true) : ChecksHalted s (exec i s) := by
  obtain ⟨act, hact⟩ := exec_byteFeed_act hi s.decState
  refine .inr ⟨_, hact s rfl, fun hlen => ?_⟩
  obtain ⟨u, hu⟩ := act.run_total hlen
  exact ⟨u.reply none, by rw [hu, finish]⟩

/-- R207: every operation but RESET checks HALTED. -/
theorem exec_checksHalted {i : Instr} (hi : i ≠ .reset) : ChecksHalted s (exec i s) := by
  cases i with
  | reset => exact absurd rfl hi
  | crcStep | crcBlock => exact checksHalted_running ⟨_, rfl⟩
  | encode => exact checksHalted_running (by split_ifs <;> exact ⟨_, rfl⟩)
  | send dest => exact checksHalted_running (by dsimp only; split_ifs <;> exact ⟨_, rfl⟩)
  | rxStatus st => exact checksHalted_running (by cases st <;> exact ⟨_, rfl⟩)
  | bind core => exact checksHalted_ite (checksHalted_running ⟨_, rfl⟩) (checksHalted_refused _)
  | parse req => exact checksHalted_ite (checksHalted_refused _) (checksHalted_running ⟨_, rfl⟩)
  | cmdNop | cmdRead | cmdWrite | cmdWrrd => exact checksHalted_judge _ _
  | rxByte | lbEnd | lbEsc | lbEscEnd | lbEscEsc | lbZero | lbOther => exact checksHalted_byteFeed rfl

theorem ChecksHalted.of_halted (h : ChecksHalted s a) (hs : s.halted = true) :
    a = .fault .halted ∨ ∃ r, a = .refused r := by
  rcases h with hrefused | ⟨k, rfl, -⟩
  · exact .inr hrefused
  · exact .inl (s.running_of_halted k hs)

theorem ChecksHalted.safeAnswer (h : ChecksHalted s a) (hlen : s.accLen ≤ rxCap s.cfg) : SafeAnswer s a := by
  rintro f hf
  rcases h with ⟨r, rfl⟩ | ⟨k, rfl, hk⟩
  · cases hf
  obtain ⟨t, rfl⟩ := hk hlen
  cases hs : s.halted with
  | false => rw [s.running_of_not_halted _ hs] at hf; cases hf
  | true => rw [s.running_of_halted _ hs] at hf; cases hf; exact ⟨rfl, rfl⟩

end

theorem exec_safeAnswer (i : Instr) {s : State} (hlen : s.accLen ≤ rxCap s.cfg) : SafeAnswer s (exec i s) := by
  by_cases hi : i = .reset
  · subst hi; exact nofun
  · exact (exec_checksHalted hi).safeAnswer hlen

/-- A step that faults faults in executing an operation taken up. -/
theorem step_fault {s : State} {f : Fault} (h : step s = .fault f) :
    ∃ op rest i, exec i (s.takeUp op rest) = .fault f := by
  unfold step at h
  split at h
  · cases h
  · split at h
    · exact ⟨_, _, _, h⟩
    · cases h

/-! ## The outputs of one received byte (R208 (2)) -/

theorem DecoderStep.outputs_cases {b : Byte} {s u : State} (h : DecoderStep b s u) :
    u.outputs = s.outputs ∨
    (∃ o, Output.isFraming o = true ∧ u.outputs = s.outputs ++ [o]) ∨
    ∃ F o, Output.isOutcome o = true ∧ u.outputs = s.outputs ++ [.event (.rxFrame F), o] := by
  cases h with
  | discard _ _ ht => subst ht; exact .inl rfl
  | emptyFrame _ _ _ ht => subst ht; exact .inl rfl
  | frame _ _ _ F o _ ho ht => subst ht; exact .inr (.inr ⟨F, o, ho, rfl⟩)
  | escape _ _ ht => subst ht; exact .inl rfl
  | violation e he ht => subst ht; exact .inr (.inl ⟨.event e, by simp [Output.isFraming, he], rfl⟩)
  | store _ _ ht => subst ht; exact .inl rfl

/-- A byte feed that completes is a transition of the decoder, with an empty result. -/
theorem exec_byteFeed_next {i : Instr} {s t : State} (hi : isByteFeed i = true) (h : exec i s = .next t) :
    ∃ b u, DecoderStep b s u ∧ t = u.reply none := by
  cases exec_effect h with
  | decoder _ b u hu ht => exact ⟨b, u, hu, ht⟩
  | answer hno _ _ _ => simp [hi] at hno
  | bind _ hno _ _ | halt _ hno _ _ | reset hno _ => subst hno; cases hi

end Sys2Proof.Machine

namespace Sys2Proof.Claims

open Sys2Proof.Machine

/-- Settles O54: the operation taken up stops at the check of HALTED alone, as ACC_LEN is in its range. -/
theorem invariantStatesNeverFault : Obligations.InvariantStatesNeverFault := by
  intro s hs f hf
  obtain ⟨op, rest, i, hexec⟩ := step_fault hf
  exact exec_safeAnswer i (s := s.takeUp op rest) hs.accLenLe f hexec

/-- Settles O27, by the transitions of the decoder. -/
theorem oneViolationOrOneFramePerByte : Obligations.OneViolationOrOneFramePerByte := by
  intro i s t hi h
  obtain ⟨b, u, hu, rfl⟩ := exec_byteFeed_next hi h
  exact hu.outputs_cases

/-- Settles O49: every operation but RESET checks HALTED, and RESET completes in every state. -/
theorem haltedBlockStepsOnlyByReset : Obligations.HaltedBlockStepsOnlyByReset :=
  fun _ hs => ⟨fun _ hi => (exec_checksHalted hi).of_halted hs, _, rfl⟩

/-- Settles O59: the codes stand in the definition, one for each event, whatever its information. -/
theorem eventCodesAreTheTable : Obligations.EventCodesAreTheTable :=
  fun _ _ _ _ _ _ => rfl

end Sys2Proof.Claims

/-! The statements of 70_reset_and_hazards.md: the step of an issued operation, the idle step, and RESET. -/

namespace Sys2Proof.Machine

open Sys2Proof.Claims

/-- R229: the operation taken up is executed. -/
theorem step_of_decode_ok {s : State} {op : HostOp} {rest : List HostOp} {i : Instr} (h : s.inputs = op :: rest)
    (hi : decode s.cfg.layout op.word = .ok i) : step s = exec i (s.takeUp op rest) := by
  simp only [step, h, hi]

/-- R216: with no operation waiting the state is held (log entry 11). -/
theorem step_of_inputs_nil {s : State} (h : s.inputs = []) : step s = .next s := by
  simp only [step, h]

/-- R220, R207: RESET completes in every state, as it does not check HALTED. -/
theorem exec_reset (s : State) : exec .reset s = .next (answers s.resetBlock [] none) := by
  rw [← reply_eq_answers]
  rfl

/-- R220: the elements RESET writes; the epoch of ACC's free values is the model's own (log entry 6). -/
theorem resetBlock_eq (s : State) :
    s.resetBlock = { s with decState := .skip, accLen := 0, coreBound := 0, halted := false,
                            acc := [], accEpoch := s.accEpoch + 1 } := rfl

end Sys2Proof.Machine

namespace Sys2Proof.Claims

open Sys2Proof.Machine

/-- Settles O1: an operation that decodes is taken up and executed, and without one the block is idle. -/
theorem stepRunsTheDecodedOperation : Obligations.StepRunsTheDecodedOperation :=
  ⟨fun _ _ _ _ => step_of_decode_ok, fun _ => step_of_inputs_nil⟩

/-- Settles O50: RESET completes with the reset block and an empty result; the reset block differs from `s` in the
elements of R220 only. -/
theorem resetRestoresTheInitialState : Obligations.ResetRestoresTheInitialState := by
  intro s
  refine ⟨_, exec_reset s, ?_⟩
  rw [resetBlock_eq]
  rfl

end Sys2Proof.Claims
